-- ==== Sys2Proof/Word.lean ====
section
/-! DEFINITION. The 32-bit word, the word buffer and the four-word register value (00_scope.md R4, R6). -/

namespace Sys2Proof

/-- A word: "an unsigned 32-bit integer" (R4, WORD_BITS = 32). -/
abbrev Word := BitVec 32

/-- A word buffer of the datapath functions: its words, least significant word first (R6). The word count
`n` of a rule is the length of the list. -/
abbrev WordBuf := List Word

/-- The content of one register: exactly four words, `w0` the least significant and fractional word, `w3` the
most significant (10_state.md R10). A register does not record a variant (R11). -/
structure Quad where
  w0 : Word
  w1 : Word
  w2 : Word
  w3 : Word
deriving DecidableEq, Repr

/-- The capability variant of a command: Unsigned or Signed (R2, R11, 30_encoding.md R33 bit `s`). -/
inductive Variant where
  | U
  | S
deriving DecidableEq, Repr

end Sys2Proof
end

