-- ==== Sys2Proof/Config.lean ====
section
/-! DEFINITION. What an implementation fixes (00_scope.md R5) and the model's one free value. -/

namespace Sys2Proof

/-- N_SQRT: the upper bound on the refinement iterations of the square-root engine (00_scope.md R5,
92_eei_decisions.md D17, 93_implementation_defined.md U7). Log entry 10. -/
def Config.nSqrt : Nat := 256

/-- SQRT_SEED_SHIFT: the right shift that makes the first estimate of a square root from an operand of bit
length `i` (00_scope.md R5, 90_conflicts.md C1, D16). Log entry 10. -/
def Config.sqrtSeedShift (i : Nat) : Nat := i / 2

/-- FREE VALUE. What word `k` of register `r` holds after the `n`-th assertion of `rst` (70_reset_and_hazards.md
R140: "every word of every register holds an unspecified value after reset"). It has no body, so no proof can see
a value of it. Log entry 2. -/
opaque Config.wordAfterRst : (n : Nat) → (r : Fin 16) → (k : Fin 4) → Word

end Sys2Proof
end

