-- ==== Sys2Proof/Syntax.lean ====
section
/-! DEFINITION. The syntax: the 64-bit command, and one constructor for each of the 51 rows of
spec/opcode_table.json (30_encoding.md R32 to R36). -/

namespace Sys2Proof

/-- A register number, `x0` to `x15` (10_state.md R10, NREG = 16). Every value is a legal register. -/
abbrev Reg := Fin 16

/-- A word index `k`, 0 to 3 (30_encoding.md R33, 20_memory.md R25). -/
abbrev WordIx := Fin 4

/-- A command as the host presents it: the control word CW and the immediate word IW (30_encoding.md R32). -/
structure Command where
  cw : Word
  iw : Word
deriving DecidableEq, Repr

/-- The commands. `imm` is IW whole (R35); how it is read is part of each command's meaning. A constructor's
operands stand in the order of its format's operand column (R34). -/
inductive Instr where
  /-- `MOV`, format RR, rule R113. -/
  | mov (rd ra : Reg)
  /-- `MKZ`, format R, rule R114. -/
  | mkz (rd : Reg)
  /-- `WRW`, format RKI, rule R115. -/
  | wrw (rd : Reg) (k : WordIx) (imm : Word)
  /-- `RDW`, format AK, rule R116. -/
  | rdw (ra : Reg) (k : WordIx)
  /-- `LDI.U`, format RI, rule R117. -/
  | ldiU (rd : Reg) (imm : Word)
  /-- `LDI.S`, format RI, rule R118. -/
  | ldiS (rd : Reg) (imm : Word)
  /-- `TOI.U`, format A, rule R119. -/
  | toiU (ra : Reg)
  /-- `TOI.S`, format A, rule R120. -/
  | toiS (ra : Reg)
  /-- `RDS`, format Z, rule R121. -/
  | rds
  /-- `ADD`, format RRR, rule R60. -/
  | add (rd ra rb : Reg)
  /-- `SUB`, format RRR, rule R61. -/
  | sub (rd ra rb : Reg)
  /-- `ADDI.U`, format RRI, rule R62. -/
  | addiU (rd ra : Reg) (imm : Word)
  /-- `ADDI.S`, format RRI, rule R63. -/
  | addiS (rd ra : Reg) (imm : Word)
  /-- `SUBI.U`, format RRI, rule R64. -/
  | subiU (rd ra : Reg) (imm : Word)
  /-- `SUBI.S`, format RRI, rule R65. -/
  | subiS (rd ra : Reg) (imm : Word)
  /-- `NEG`, format RR, rule R66. -/
  | neg (rd ra : Reg)
  /-- `INC`, format RR, rule R67. -/
  | inc (rd ra : Reg)
  /-- `DEC`, format RR, rule R68. -/
  | dec (rd ra : Reg)
  /-- `SHL`, format RRI, rule R70. -/
  | shl (rd ra : Reg) (imm : Word)
  /-- `SHR.U`, format RRI, rule R71. -/
  | shrU (rd ra : Reg) (imm : Word)
  /-- `SHR.S`, format RRI, rule R72. -/
  | shrS (rd ra : Reg) (imm : Word)
  /-- `AND`, format RRR, rule R73. -/
  | and (rd ra rb : Reg)
  /-- `OR`, format RRR, rule R74. -/
  | or (rd ra rb : Reg)
  /-- `XOR`, format RRR, rule R75. -/
  | xor (rd ra rb : Reg)
  /-- `NOT`, format RR, rule R76. -/
  | not (rd ra : Reg)
  /-- `CEQ`, format AB, rule R77. -/
  | ceq (ra rb : Reg)
  /-- `CNE`, format AB, rule R78. -/
  | cne (ra rb : Reg)
  /-- `CLT.U`, format AB, rule R79. -/
  | cltU (ra rb : Reg)
  /-- `CLT.S`, format AB, rule R80. -/
  | cltS (ra rb : Reg)
  /-- `CGT.U`, format AB, rule R81. -/
  | cgtU (ra rb : Reg)
  /-- `CGT.S`, format AB, rule R82. -/
  | cgtS (ra rb : Reg)
  /-- `CLE.U`, format AB, rule R83. -/
  | cleU (ra rb : Reg)
  /-- `CLE.S`, format AB, rule R84. -/
  | cleS (ra rb : Reg)
  /-- `CGE.U`, format AB, rule R85. -/
  | cgeU (ra rb : Reg)
  /-- `CGE.S`, format AB, rule R86. -/
  | cgeS (ra rb : Reg)
  /-- `TZ`, format A, rule R87. -/
  | tz (ra : Reg)
  /-- `TBIT.U`, format AI, rule R88. -/
  | tbitU (ra : Reg) (imm : Word)
  /-- `TBIT.S`, format AI, rule R89. -/
  | tbitS (ra : Reg) (imm : Word)
  /-- `TMSB`, format A, rule R90. -/
  | tmsb (ra : Reg)
  /-- `TLSB`, format A, rule R91. -/
  | tlsb (ra : Reg)
  /-- `SMSB`, format RR, rule R92. -/
  | smsb (rd ra : Reg)
  /-- `MUL.U`, format RRR, rule R96. -/
  | mulU (rd ra rb : Reg)
  /-- `MUL.S`, format RRR, rule R97. -/
  | mulS (rd ra rb : Reg)
  /-- `MULI.U`, format RRI, rule R98. -/
  | muliU (rd ra : Reg) (imm : Word)
  /-- `MULI.S`, format RRI, rule R99. -/
  | muliS (rd ra : Reg) (imm : Word)
  /-- `DIV.U`, format RRR, rule R104. -/
  | divU (rd ra rb : Reg)
  /-- `DIV.S`, format RRR, rule R105. -/
  | divS (rd ra rb : Reg)
  /-- `DIVI.U`, format RRI, rule R106. -/
  | diviU (rd ra : Reg) (imm : Word)
  /-- `DIVI.S`, format RRI, rule R107. -/
  | diviS (rd ra : Reg) (imm : Word)
  /-- `SQRT.U`, format RR, rule R110. -/
  | sqrtU (rd ra : Reg)
  /-- `SQRT.S`, format RR, rule R111. -/
  | sqrtS (rd ra : Reg)
deriving DecidableEq, Repr

/-- The mnemonic of a command, letter for letter as spec/opcode_table.json has it (R36). -/
def Instr.mnemonic : Instr → String
  | .mov _ _ => "MOV"
  | .mkz _ => "MKZ"
  | .wrw _ _ _ => "WRW"
  | .rdw _ _ => "RDW"
  | .ldiU _ _ => "LDI.U"
  | .ldiS _ _ => "LDI.S"
  | .toiU _ => "TOI.U"
  | .toiS _ => "TOI.S"
  | .rds => "RDS"
  | .add _ _ _ => "ADD"
  | .sub _ _ _ => "SUB"
  | .addiU _ _ _ => "ADDI.U"
  | .addiS _ _ _ => "ADDI.S"
  | .subiU _ _ _ => "SUBI.U"
  | .subiS _ _ _ => "SUBI.S"
  | .neg _ _ => "NEG"
  | .inc _ _ => "INC"
  | .dec _ _ => "DEC"
  | .shl _ _ _ => "SHL"
  | .shrU _ _ _ => "SHR.U"
  | .shrS _ _ _ => "SHR.S"
  | .and _ _ _ => "AND"
  | .or _ _ _ => "OR"
  | .xor _ _ _ => "XOR"
  | .not _ _ => "NOT"
  | .ceq _ _ => "CEQ"
  | .cne _ _ => "CNE"
  | .cltU _ _ => "CLT.U"
  | .cltS _ _ => "CLT.S"
  | .cgtU _ _ => "CGT.U"
  | .cgtS _ _ => "CGT.S"
  | .cleU _ _ => "CLE.U"
  | .cleS _ _ => "CLE.S"
  | .cgeU _ _ => "CGE.U"
  | .cgeS _ _ => "CGE.S"
  | .tz _ => "TZ"
  | .tbitU _ _ => "TBIT.U"
  | .tbitS _ _ => "TBIT.S"
  | .tmsb _ => "TMSB"
  | .tlsb _ => "TLSB"
  | .smsb _ _ => "SMSB"
  | .mulU _ _ _ => "MUL.U"
  | .mulS _ _ _ => "MUL.S"
  | .muliU _ _ _ => "MULI.U"
  | .muliS _ _ _ => "MULI.S"
  | .divU _ _ _ => "DIV.U"
  | .divS _ _ _ => "DIV.S"
  | .diviU _ _ _ => "DIVI.U"
  | .diviS _ _ _ => "DIVI.S"
  | .sqrtU _ _ => "SQRT.U"
  | .sqrtS _ _ => "SQRT.S"

/-- Whether the command has an immediate operand (R35): in every other command IW is ignored. -/
def Instr.usesImmediate : Instr → Bool
  | .mov _ _ => false
  | .mkz _ => false
  | .wrw _ _ _ => true
  | .rdw _ _ => false
  | .ldiU _ _ => true
  | .ldiS _ _ => true
  | .toiU _ => false
  | .toiS _ => false
  | .rds => false
  | .add _ _ _ => false
  | .sub _ _ _ => false
  | .addiU _ _ _ => true
  | .addiS _ _ _ => true
  | .subiU _ _ _ => true
  | .subiS _ _ _ => true
  | .neg _ _ => false
  | .inc _ _ => false
  | .dec _ _ => false
  | .shl _ _ _ => true
  | .shrU _ _ _ => true
  | .shrS _ _ _ => true
  | .and _ _ _ => false
  | .or _ _ _ => false
  | .xor _ _ _ => false
  | .not _ _ => false
  | .ceq _ _ => false
  | .cne _ _ => false
  | .cltU _ _ => false
  | .cltS _ _ => false
  | .cgtU _ _ => false
  | .cgtS _ _ => false
  | .cleU _ _ => false
  | .cleS _ _ => false
  | .cgeU _ _ => false
  | .cgeS _ _ => false
  | .tz _ => false
  | .tbitU _ _ => true
  | .tbitS _ _ => true
  | .tmsb _ => false
  | .tlsb _ => false
  | .smsb _ _ => false
  | .mulU _ _ _ => false
  | .mulS _ _ _ => false
  | .muliU _ _ _ => true
  | .muliS _ _ _ => true
  | .divU _ _ _ => false
  | .divS _ _ _ => false
  | .diviU _ _ _ => true
  | .diviS _ _ _ => true
  | .sqrtU _ _ => false
  | .sqrtS _ _ => false

end Sys2Proof
end

