-- ==== Sys2Proof/WellFormed.lean ====
section
/-! DEFINITION. Which commands are well formed: the mask and match table of 30_encoding.md R34, copied row by
row from spec/opcode_table.json. Decode.lean reads a command by its fields (R33, R36, R37) instead, so that the two
can be held against each other. -/

namespace Sys2Proof

/-- One row of the opcode table: a control word is this row's command exactly when `CW AND mask = bits` (R34). -/
structure OpcodeRow where
  mnemonic : String
  mask : Word
  bits : Word
deriving DecidableEq, Repr

/-- The rows of the commands of 47_move_convert_host.md. -/
def opcodeRowsMoveHost : List OpcodeRow :=
  [⟨"MOV", 0xFFF00FFF, 0x01000000⟩,
   ⟨"MKZ", 0xFFF0FFFF, 0x02000000⟩,
   ⟨"WRW", 0xFFF0FFFC, 0x03000000⟩,
   ⟨"RDW", 0xFFFF0FFC, 0x04000000⟩,
   ⟨"LDI.U", 0xFFF0FFFF, 0x05000000⟩,
   ⟨"LDI.S", 0xFFF0FFFF, 0x05800000⟩,
   ⟨"TOI.U", 0xFFFF0FFF, 0x06000000⟩,
   ⟨"TOI.S", 0xFFFF0FFF, 0x06800000⟩,
   ⟨"RDS", 0xFFFFFFFF, 0x07000000⟩]

/-- The rows of the commands of 41_add_sub.md. -/
def opcodeRowsAddSub : List OpcodeRow :=
  [⟨"ADD", 0xFFF000FF, 0x10000000⟩,
   ⟨"SUB", 0xFFF000FF, 0x11000000⟩,
   ⟨"ADDI.U", 0xFFF00FFF, 0x12000000⟩,
   ⟨"ADDI.S", 0xFFF00FFF, 0x12800000⟩,
   ⟨"SUBI.U", 0xFFF00FFF, 0x13000000⟩,
   ⟨"SUBI.S", 0xFFF00FFF, 0x13800000⟩,
   ⟨"NEG", 0xFFF00FFF, 0x14000000⟩,
   ⟨"INC", 0xFFF00FFF, 0x15000000⟩,
   ⟨"DEC", 0xFFF00FFF, 0x16000000⟩]

/-- The rows of the commands of 42_shift_bitwise.md. -/
def opcodeRowsShiftBitwise : List OpcodeRow :=
  [⟨"SHL", 0xFFF00FFF, 0x20000000⟩,
   ⟨"SHR.U", 0xFFF00FFF, 0x21000000⟩,
   ⟨"SHR.S", 0xFFF00FFF, 0x21800000⟩,
   ⟨"AND", 0xFFF000FF, 0x28000000⟩,
   ⟨"OR", 0xFFF000FF, 0x29000000⟩,
   ⟨"XOR", 0xFFF000FF, 0x2A000000⟩,
   ⟨"NOT", 0xFFF00FFF, 0x2B000000⟩]

/-- The rows of the commands of 43_compare_test.md. -/
def opcodeRowsCompareTest : List OpcodeRow :=
  [⟨"CEQ", 0xFFFF00FF, 0x30000000⟩,
   ⟨"CNE", 0xFFFF00FF, 0x31000000⟩,
   ⟨"CLT.U", 0xFFFF00FF, 0x32000000⟩,
   ⟨"CLT.S", 0xFFFF00FF, 0x32800000⟩,
   ⟨"CGT.U", 0xFFFF00FF, 0x33000000⟩,
   ⟨"CGT.S", 0xFFFF00FF, 0x33800000⟩,
   ⟨"CLE.U", 0xFFFF00FF, 0x34000000⟩,
   ⟨"CLE.S", 0xFFFF00FF, 0x34800000⟩,
   ⟨"CGE.U", 0xFFFF00FF, 0x35000000⟩,
   ⟨"CGE.S", 0xFFFF00FF, 0x35800000⟩,
   ⟨"TZ", 0xFFFF0FFF, 0x38000000⟩,
   ⟨"TBIT.U", 0xFFFF0FFF, 0x39000000⟩,
   ⟨"TBIT.S", 0xFFFF0FFF, 0x39800000⟩,
   ⟨"TMSB", 0xFFFF0FFF, 0x3A000000⟩,
   ⟨"TLSB", 0xFFFF0FFF, 0x3B000000⟩,
   ⟨"SMSB", 0xFFF00FFF, 0x3C000000⟩]

/-- The rows of the commands of 44_multiply.md, 45_divide.md and 46_sqrt.md. -/
def opcodeRowsArithmetic : List OpcodeRow :=
  [⟨"MUL.U", 0xFFF000FF, 0x40000000⟩,
   ⟨"MUL.S", 0xFFF000FF, 0x40800000⟩,
   ⟨"MULI.U", 0xFFF00FFF, 0x41000000⟩,
   ⟨"MULI.S", 0xFFF00FFF, 0x41800000⟩,
   ⟨"DIV.U", 0xFFF000FF, 0x48000000⟩,
   ⟨"DIV.S", 0xFFF000FF, 0x48800000⟩,
   ⟨"DIVI.U", 0xFFF00FFF, 0x49000000⟩,
   ⟨"DIVI.S", 0xFFF00FFF, 0x49800000⟩,
   ⟨"SQRT.U", 0xFFF00FFF, 0x50000000⟩,
   ⟨"SQRT.S", 0xFFF00FFF, 0x50800000⟩]

/-- The opcode table, 51 rows (R34, R36). -/
def opcodeTable : List OpcodeRow :=
  opcodeRowsMoveHost ++ opcodeRowsAddSub ++ opcodeRowsShiftBitwise ++ opcodeRowsCompareTest ++ opcodeRowsArithmetic

/-- `CW AND mask = match` (R34). -/
def OpcodeRow.matchesWord (row : OpcodeRow) (cw : Word) : Bool :=
  cw &&& row.mask == row.bits

/-- A command is well formed when some row of the table matches its control word; every other command is reserved
(R34, R37). IW is never checked: any value is legal (R32). -/
def Command.wellFormed (c : Command) : Bool :=
  opcodeTable.any fun row => row.matchesWord c.cw

end Sys2Proof
end

