-- ==== Sys2Proof/Decode.lean ====
section
/-! DEFINITION. The decoder, total on every 64-bit command, and after it the encoder (30_encoding.md R32 to R37). -/

namespace Sys2Proof

/-! ## The fields of the control word (R33) -/

/-- `op`, bits 31:24. -/
def Command.op (c : Command) : BitVec 8 := c.cw.extractLsb' 24 8
/-- `s`, bit 23: the variant. -/
def Command.s (c : Command) : Bool := c.cw.getLsbD 23
/-- Bits 22:20, which must be 000. -/
def Command.zeroHigh (c : Command) : BitVec 3 := c.cw.extractLsb' 20 3
/-- `rd`, bits 19:16. -/
def Command.rd (c : Command) : Reg := (c.cw.extractLsb' 16 4).toFin
/-- `ra`, bits 15:12. -/
def Command.ra (c : Command) : Reg := (c.cw.extractLsb' 12 4).toFin
/-- `rb`, bits 11:8. -/
def Command.rb (c : Command) : Reg := (c.cw.extractLsb' 8 4).toFin
/-- Bits 7:2, which must be 000000. -/
def Command.zeroLow (c : Command) : BitVec 6 := c.cw.extractLsb' 2 6
/-- `k`, bits 1:0: the word index. -/
def Command.k (c : Command) : WordIx := (c.cw.extractLsb' 0 2).toFin

/-! ## Decoding -/

/-- Why a control word is reserved: the clauses of R37, in the order in which this decoder looks at them. -/
inductive Reserved where
  /-- `op` is not one of the 36 opcodes of R36 (0x00 among them). -/
  | unassignedOpcode
  /-- Bit 23 is 1 in a command without variants. -/
  | variantBit
  /-- Bits 22:20 or bits 7:2 are not zero. -/
  | zeroField
  /-- A register field that the format does not use is not zero. -/
  | unusedRegister
  /-- `k` is not zero in a command other than `WRW` and `RDW`. -/
  | wordIndex
deriving DecidableEq, Repr

/-- What the decoder answers: a command of the table, or "reserved" with the clause of R37 that makes it so. -/
inductive Decoded where
  | command (i : Instr)
  | reserved (why : Reserved)
deriving DecidableEq, Repr

/-- The checks that every format shares: the zero fields, the unused register fields, the unused `k` (R34, R37). -/
def accept (c : Command) (unusedRegsZero unusedKZero : Bool) (i : Instr) : Decoded :=
  if c.zeroHigh ≠ 0 ∨ c.zeroLow ≠ 0 then .reserved .zeroField
  else if unusedRegsZero = false then .reserved .unusedRegister
  else if unusedKZero = false then .reserved .wordIndex
  else .command i

/-- A command without variants: bit 23 must be 0 (R33). -/
def oneForm (c : Command) (d : Decoded) : Decoded := if c.s then .reserved .variantBit else d

/-- A command with two variants: bit 23 is 0 for U, 1 for S (R33, R36). -/
def twoForms (c : Command) (u s : Decoded) : Decoded := if c.s then s else u

/-! The formats of R34. -/

/-- Format RRR: rd, ra, rb. -/
def fmtRRR (c : Command) (f : Reg → Reg → Reg → Instr) : Decoded :=
  accept c true (c.k == 0) (f c.rd c.ra c.rb)
/-- Format RR: rd, ra. -/
def fmtRR (c : Command) (f : Reg → Reg → Instr) : Decoded :=
  accept c (c.rb == 0) (c.k == 0) (f c.rd c.ra)
/-- Format R: rd. -/
def fmtR (c : Command) (f : Reg → Instr) : Decoded :=
  accept c (c.ra == 0 && c.rb == 0) (c.k == 0) (f c.rd)
/-- Format RRI: rd, ra, #imm. -/
def fmtRRI (c : Command) (f : Reg → Reg → Word → Instr) : Decoded :=
  accept c (c.rb == 0) (c.k == 0) (f c.rd c.ra c.iw)
/-- Format RI: rd, #imm. -/
def fmtRI (c : Command) (f : Reg → Word → Instr) : Decoded :=
  accept c (c.ra == 0 && c.rb == 0) (c.k == 0) (f c.rd c.iw)
/-- Format RKI: rd[k], #imm. -/
def fmtRKI (c : Command) (f : Reg → WordIx → Word → Instr) : Decoded :=
  accept c (c.ra == 0 && c.rb == 0) true (f c.rd c.k c.iw)
/-- Format AK: ra[k]. -/
def fmtAK (c : Command) (f : Reg → WordIx → Instr) : Decoded :=
  accept c (c.rd == 0 && c.rb == 0) true (f c.ra c.k)
/-- Format A: ra. -/
def fmtA (c : Command) (f : Reg → Instr) : Decoded :=
  accept c (c.rd == 0 && c.rb == 0) (c.k == 0) (f c.ra)
/-- Format AI: ra, #imm. -/
def fmtAI (c : Command) (f : Reg → Word → Instr) : Decoded :=
  accept c (c.rd == 0 && c.rb == 0) (c.k == 0) (f c.ra c.iw)
/-- Format AB: ra, rb. -/
def fmtAB (c : Command) (f : Reg → Reg → Instr) : Decoded :=
  accept c (c.rd == 0) (c.k == 0) (f c.ra c.rb)
/-- Format Z: no operands. -/
def fmtZ (c : Command) (i : Instr) : Decoded :=
  accept c (c.rd == 0 && c.ra == 0 && c.rb == 0) (c.k == 0) i

/-- The opcode map of R36, one row per opcode. Every other opcode is reserved (R37). -/
def decode (c : Command) : Decoded :=
  match c.op.toNat with
  | 0x01 => oneForm c (fmtRR c .mov)
  | 0x02 => oneForm c (fmtR c .mkz)
  | 0x03 => oneForm c (fmtRKI c .wrw)
  | 0x04 => oneForm c (fmtAK c .rdw)
  | 0x05 => twoForms c (fmtRI c .ldiU) (fmtRI c .ldiS)
  | 0x06 => twoForms c (fmtA c .toiU) (fmtA c .toiS)
  | 0x07 => oneForm c (fmtZ c .rds)
  | 0x10 => oneForm c (fmtRRR c .add)
  | 0x11 => oneForm c (fmtRRR c .sub)
  | 0x12 => twoForms c (fmtRRI c .addiU) (fmtRRI c .addiS)
  | 0x13 => twoForms c (fmtRRI c .subiU) (fmtRRI c .subiS)
  | 0x14 => oneForm c (fmtRR c .neg)
  | 0x15 => oneForm c (fmtRR c .inc)
  | 0x16 => oneForm c (fmtRR c .dec)
  | 0x20 => oneForm c (fmtRRI c .shl)
  | 0x21 => twoForms c (fmtRRI c .shrU) (fmtRRI c .shrS)
  | 0x28 => oneForm c (fmtRRR c .and)
  | 0x29 => oneForm c (fmtRRR c .or)
  | 0x2A => oneForm c (fmtRRR c .xor)
  | 0x2B => oneForm c (fmtRR c .not)
  | 0x30 => oneForm c (fmtAB c .ceq)
  | 0x31 => oneForm c (fmtAB c .cne)
  | 0x32 => twoForms c (fmtAB c .cltU) (fmtAB c .cltS)
  | 0x33 => twoForms c (fmtAB c .cgtU) (fmtAB c .cgtS)
  | 0x34 => twoForms c (fmtAB c .cleU) (fmtAB c .cleS)
  | 0x35 => twoForms c (fmtAB c .cgeU) (fmtAB c .cgeS)
  | 0x38 => oneForm c (fmtA c .tz)
  | 0x39 => twoForms c (fmtAI c .tbitU) (fmtAI c .tbitS)
  | 0x3A => oneForm c (fmtA c .tmsb)
  | 0x3B => oneForm c (fmtA c .tlsb)
  | 0x3C => oneForm c (fmtRR c .smsb)
  | 0x40 => twoForms c (fmtRRR c .mulU) (fmtRRR c .mulS)
  | 0x41 => twoForms c (fmtRRI c .muliU) (fmtRRI c .muliS)
  | 0x48 => twoForms c (fmtRRR c .divU) (fmtRRR c .divS)
  | 0x49 => twoForms c (fmtRRI c .diviU) (fmtRRI c .diviS)
  | 0x50 => twoForms c (fmtRR c .sqrtU) (fmtRR c .sqrtS)
  | _ => .reserved .unassignedOpcode

/-! ## Encoding -/

/-- The control word with the given fields, the zero fields 0 (R33). -/
def packCw (op : BitVec 8) (s : Bool) (rd ra rb : Reg) (k : WordIx) : Word :=
  op ++ BitVec.ofBool s ++ 0#3 ++ BitVec.ofNat 4 rd.val ++ BitVec.ofNat 4 ra.val ++ BitVec.ofNat 4 rb.val ++ 0#6
    ++ BitVec.ofNat 2 k.val

/-- The command of an instruction: CW by R33 to R36, unused fields zero; IW is the immediate, and 0 in a command
that ignores it (log entry 14). -/
def encode : Instr → Command
  | .mov rd ra => ⟨packCw 0x01 false rd ra 0 0, 0⟩
  | .mkz rd => ⟨packCw 0x02 false rd 0 0 0, 0⟩
  | .wrw rd k imm => ⟨packCw 0x03 false rd 0 0 k, imm⟩
  | .rdw ra k => ⟨packCw 0x04 false 0 ra 0 k, 0⟩
  | .ldiU rd imm => ⟨packCw 0x05 false rd 0 0 0, imm⟩
  | .ldiS rd imm => ⟨packCw 0x05 true rd 0 0 0, imm⟩
  | .toiU ra => ⟨packCw 0x06 false 0 ra 0 0, 0⟩
  | .toiS ra => ⟨packCw 0x06 true 0 ra 0 0, 0⟩
  | .rds => ⟨packCw 0x07 false 0 0 0 0, 0⟩
  | .add rd ra rb => ⟨packCw 0x10 false rd ra rb 0, 0⟩
  | .sub rd ra rb => ⟨packCw 0x11 false rd ra rb 0, 0⟩
  | .addiU rd ra imm => ⟨packCw 0x12 false rd ra 0 0, imm⟩
  | .addiS rd ra imm => ⟨packCw 0x12 true rd ra 0 0, imm⟩
  | .subiU rd ra imm => ⟨packCw 0x13 false rd ra 0 0, imm⟩
  | .subiS rd ra imm => ⟨packCw 0x13 true rd ra 0 0, imm⟩
  | .neg rd ra => ⟨packCw 0x14 false rd ra 0 0, 0⟩
  | .inc rd ra => ⟨packCw 0x15 false rd ra 0 0, 0⟩
  | .dec rd ra => ⟨packCw 0x16 false rd ra 0 0, 0⟩
  | .shl rd ra imm => ⟨packCw 0x20 false rd ra 0 0, imm⟩
  | .shrU rd ra imm => ⟨packCw 0x21 false rd ra 0 0, imm⟩
  | .shrS rd ra imm => ⟨packCw 0x21 true rd ra 0 0, imm⟩
  | .and rd ra rb => ⟨packCw 0x28 false rd ra rb 0, 0⟩
  | .or rd ra rb => ⟨packCw 0x29 false rd ra rb 0, 0⟩
  | .xor rd ra rb => ⟨packCw 0x2A false rd ra rb 0, 0⟩
  | .not rd ra => ⟨packCw 0x2B false rd ra 0 0, 0⟩
  | .ceq ra rb => ⟨packCw 0x30 false 0 ra rb 0, 0⟩
  | .cne ra rb => ⟨packCw 0x31 false 0 ra rb 0, 0⟩
  | .cltU ra rb => ⟨packCw 0x32 false 0 ra rb 0, 0⟩
  | .cltS ra rb => ⟨packCw 0x32 true 0 ra rb 0, 0⟩
  | .cgtU ra rb => ⟨packCw 0x33 false 0 ra rb 0, 0⟩
  | .cgtS ra rb => ⟨packCw 0x33 true 0 ra rb 0, 0⟩
  | .cleU ra rb => ⟨packCw 0x34 false 0 ra rb 0, 0⟩
  | .cleS ra rb => ⟨packCw 0x34 true 0 ra rb 0, 0⟩
  | .cgeU ra rb => ⟨packCw 0x35 false 0 ra rb 0, 0⟩
  | .cgeS ra rb => ⟨packCw 0x35 true 0 ra rb 0, 0⟩
  | .tz ra => ⟨packCw 0x38 false 0 ra 0 0, 0⟩
  | .tbitU ra imm => ⟨packCw 0x39 false 0 ra 0 0, imm⟩
  | .tbitS ra imm => ⟨packCw 0x39 true 0 ra 0 0, imm⟩
  | .tmsb ra => ⟨packCw 0x3A false 0 ra 0 0, 0⟩
  | .tlsb ra => ⟨packCw 0x3B false 0 ra 0 0, 0⟩
  | .smsb rd ra => ⟨packCw 0x3C false rd ra 0 0, 0⟩
  | .mulU rd ra rb => ⟨packCw 0x40 false rd ra rb 0, 0⟩
  | .mulS rd ra rb => ⟨packCw 0x40 true rd ra rb 0, 0⟩
  | .muliU rd ra imm => ⟨packCw 0x41 false rd ra 0 0, imm⟩
  | .muliS rd ra imm => ⟨packCw 0x41 true rd ra 0 0, imm⟩
  | .divU rd ra rb => ⟨packCw 0x48 false rd ra rb 0, 0⟩
  | .divS rd ra rb => ⟨packCw 0x48 true rd ra rb 0, 0⟩
  | .diviU rd ra imm => ⟨packCw 0x49 false rd ra 0 0, imm⟩
  | .diviS rd ra imm => ⟨packCw 0x49 true rd ra 0 0, imm⟩
  | .sqrtU rd ra => ⟨packCw 0x50 false rd ra 0 0, 0⟩
  | .sqrtS rd ra => ⟨packCw 0x50 true rd ra 0 0, 0⟩

/-! ## Command streams and the host's numbering of bits -/

/-- A command from its bits as spec/opcode_table.json numbers them: bits 31..0 are CW, bits 63..32 are IW, the word
that follows it (R32). -/
def commandOfBits (w : Nat) : Command := ⟨BitVec.ofNat 32 w, BitVec.ofNat 32 (w / 2 ^ 32)⟩

/-- A command stream written as 32-bit words: each command is CW, then IW (R32). A last word without its IW is no
command and is dropped. -/
def commandsOfWords : List Word → List Command
  | cw :: iw :: rest => ⟨cw, iw⟩ :: commandsOfWords rest
  | _ => []

/-- What the decoder reads from an instruction whose low `nbits` bits are `w`, every higher bit 0. -/
def decodeTableWord (nbits w : Nat) : Option Instr :=
  match decode (commandOfBits (w % 2 ^ nbits)) with
  | .command i => some i
  | .reserved _ => none

end Sys2Proof
end

