-- ==== Sys2Proof/Machine/State.lean ====
section
/-! DEFINITION. The state of the machine (10_state.md), its host inputs (30_encoding.md R42), its faults and
refusals, and the state after reset (10_state.md R22, 70_reset_and_hazards.md R140). -/

namespace Sys2Proof.Machine

/-- STATUS, two bits: bit 0 is C, bit 1 is T; no other bit exists (10_state.md R15). -/
structure Status where
  /-- Carry-out or borrow-out of the last add or subtract command (R16). -/
  c : Bool
  /-- Result of the last comparison or test command (R17). -/
  t : Bool
deriving DecidableEq, Repr

/-- What the host does next on the unit's input ports (30_encoding.md R42). Each lands between commands. -/
inductive HostInput where
  /-- `cmd_valid` is high: the host presents this command on `cmd_cw` and `cmd_iw`. -/
  | command (c : Command)
  /-- `cmd_valid` is low: nothing is presented. -/
  | idle
  /-- `rst` is high at a clock edge (70_reset_and_hazards.md R140); `inFlight` is the command that was accepted and
  not yet retired at that moment, if there was one (R145). -/
  | rst (inFlight : Option Command)
deriving DecidableEq, Repr

/-- The machine's state: plain data. INVENTORY.md lists each field with its rule. -/
structure State where
  /-- The register file `x0` to `x15` (R10). -/
  regs : Vector Quad 16
  /-- For each register, which of its four words a command has written since reset (R13, R22). No command's result
  depends on a mark; Safety.lean reads them (log entry 8). -/
  written : Vector (Vector Bool 4) 16
  /-- STATUS (R15). -/
  status : Status
  /-- RDATA (R15, R18). -/
  rdata : Word
  /-- The output `rsp_valid`: the last step retired a command (30_encoding.md R42). -/
  rspValid : Bool
  /-- What the host still has to present, in order (R14, R27). The host's state, not the hardware's (log entry 3). -/
  inputs : List HostInput
  /-- The MODEL's own counter of assertions of `rst`, which only feeds `Config.wordAfterRst` (log entry 2). -/
  resets : Nat
deriving DecidableEq, Repr

/-- Why the machine can stop with a fault. The hardware raises no exception (60_exceptions.md R126), and
`Machine.step` raises no fault either. -/
inductive Fault where
  /-- A command was about to read word `k` of register `r`, which no command has written since reset (10_state.md
  R13, 93_implementation_defined.md U2). Raised by `Sys2Proof.Safety.checkedStep` only, the cautious step that says
  which runs obey R141. Safe: it stops where the hardware goes on. -/
  | unwrittenRead (r : Reg) (k : WordIx)
deriving DecidableEq, Repr

/-- Why the machine can refuse. -/
inductive Refusal where
  /-- No meaning for this instruction; raised by `exec` on an instruction not yet modelled (none at present). Safe. -/
  | notModelled (mnemonic : String)
  /-- A reserved control word was presented (30_encoding.md R37, 93_implementation_defined.md U1); `why` is the clause
  of R37. Raised by `step`. Safe: the spec defines no behaviour. -/
  | reservedCommand (why : Reserved)
deriving DecidableEq, Repr

/-- The three outcomes of a step or of a command. -/
abbrev Result := Host.Outcome State Fault Refusal

/-- The state right after reset (R22, R140): STATUS and RDATA 0, `rsp_valid` low, every register word marked
unwritten, nothing presented. The register words hold 0: the spec gives them no value (DESIGN CHOICE, log entry 1). -/
def State.reset : State where
  regs := Vector.replicate 16 ⟨0, 0, 0, 0⟩
  written := Vector.replicate 16 (Vector.replicate 4 false)
  status := ⟨false, false⟩
  rdata := 0
  rspValid := false
  inputs := []
  resets := 0

end Sys2Proof.Machine
end

