-- ==== Sys2Proof/Machine/Buffer.lean ====
section
/-! DEFINITION. Word buffers and the integers they hold (00_scope.md R6, R7), and the four words of a register. -/

namespace Sys2Proof.Machine

/-- `uval(b)`: the unsigned integer a buffer holds, word 0 least significant (R6). -/
def uval : WordBuf → Nat
  | [] => 0
  | w :: ws => w.toNat + 2 ^ 32 * uval ws

/-- Bit `j` of a buffer: bit `j mod 32` of word `j div 32` (R6); 0 above the buffer. -/
def bitAt (b : WordBuf) (j : Nat) : Bool := (b.getD (j / 32) 0).getLsbD (j % 32)

/-- Bit `32n - 1` of an `n`-word buffer: its sign bit in the S reading (R6, R56). -/
def signBit (b : WordBuf) : Bool := bitAt b (32 * b.length - 1)

/-- `sval(b)`: the signed (two's-complement) integer a buffer holds (R6). -/
def sval (b : WordBuf) : Int :=
  if signBit b then (uval b : Int) - 2 ^ (32 * b.length) else uval b

/-- `buf_n(v)` for a natural number: the `n`-word buffer with `uval = v mod 2^(32n)` (R6). -/
def buf : Nat → Nat → WordBuf
  | 0, _ => []
  | n + 1, v => BitVec.ofNat 32 v :: buf n (v / 2 ^ 32)

/-- `buf_n(v)` for an integer: `mod` is the non-negative remainder (R6, R8). -/
def bufInt (n : Nat) (v : Int) : WordBuf := buf n (v % 2 ^ (32 * n)).toNat

/-- The reading `E(x)` of a buffer under a variant: `uval` for U, `sval` for S (44_multiply.md R95). -/
def reading (v : Variant) (b : WordBuf) : Int :=
  match v with
  | .U => uval b
  | .S => sval b

/-- Word `k` of a register's content (10_state.md R10). -/
def quadWord (q : Quad) (k : WordIx) : Word :=
  match k with
  | 0 => q.w0
  | 1 => q.w1
  | 2 => q.w2
  | 3 => q.w3

/-- A register's content with word `k` replaced (R8, `x[i].w[k] <- v`). -/
def quadSetWord (q : Quad) (k : WordIx) (w : Word) : Quad :=
  match k with
  | 0 => { q with w0 := w }
  | 1 => { q with w1 := w }
  | 2 => { q with w2 := w }
  | 3 => { q with w3 := w }

/-- A register's content as a 4-word buffer (R10). -/
def quadWords (q : Quad) : WordBuf := [q.w0, q.w1, q.w2, q.w3]

/-- The register content whose four words are the buffer's words 0 to 3. -/
def quadOf (b : WordBuf) : Quad := ⟨b.getD 0 0, b.getD 1 0, b.getD 2 0, b.getD 3 0⟩

/-- The raw value of a register's content: the 128-bit unsigned integer (R7). -/
def raw (q : Quad) : Nat := uval (quadWords q)

/-- The raw value read as Signed (R7). -/
def rawSigned (q : Quad) : Int := sval (quadWords q)

/-- The register content with raw value `v mod 2^128`. -/
def quadOfNat (v : Nat) : Quad := quadOf (buf 4 v)

/-- The register content with raw value `v mod 2^128`, for an integer `v`. -/
def quadOfInt (v : Int) : Quad := quadOf (bufInt 4 v)

/-- The plain integer IW as a signed number: `sval` of the 1-word buffer (30_encoding.md R35). -/
def signedImm (iw : Word) : Int := sval [iw]

/-- The numeric value of a register's content under a variant, a multiple of `2^-32` (R7). -/
def numericValue (v : Variant) (q : Quad) : ℚ := (reading v (quadWords q) : ℚ) / 2 ^ 32

end Sys2Proof.Machine
end

