-- ==== Sys2Proof/Machine/Primitives.lean ====
section
/-! DEFINITION. The word-array primitives, the datapath functions every command is built from
(40_word_array_primitives.md R44 to R58). Each is generic over the word counts of its buffers. -/

namespace Sys2Proof.Machine

/-! ## The ripple-carry adder/subtractor -/

/-- The loop of R44: word by word from the least significant, the carry rippling upwards. -/
def addCarry : WordBuf → WordBuf → Bool → WordBuf × Bool
  | a :: as, b :: bs, c =>
    let t := a.toNat + b.toNat + c.toNat
    let r := addCarry as bs (t / 2 ^ 32 == 1)
    (BitVec.ofNat 32 t :: r.1, r.2)
  | _, _, c => ([], c)

/-- `ADD_n(a, b)`: the sum and the carry-out (R44). -/
def addWords (a b : WordBuf) : WordBuf × Bool := addCarry a b false

/-- The loop of R45: word by word from the least significant, the borrow rippling upwards. -/
def subBorrow : WordBuf → WordBuf → Bool → WordBuf × Bool
  | a :: as, b :: bs, br =>
    let t : Int := (a.toNat : Int) - b.toNat - br.toNat
    let r := subBorrow as bs (decide (t < 0))
    (BitVec.ofInt 32 t :: r.1, r.2)
  | _, _, br => ([], br)

/-- `SUB_n(a, b)`: the difference and the borrow-out (R45). -/
def subWords (a b : WordBuf) : WordBuf × Bool := subBorrow a b false

/-- `ALIGN(b, sb, fb, sa, fa, fill)`: `b`, of which the low `fb` words are fractional, at its place in a buffer of `sa`
words of which the low `fa` are fractional (R46; `sb` is the length of `b`). -/
def align (b : WordBuf) (fb sa fa : Nat) (fill : Word) : WordBuf :=
  (List.range sa).map fun i =>
    let j : Int := (i : Int) - ((fa : Int) - fb)
    if 0 ≤ j ∧ j < b.length then b.getD j.toNat 0
    else if (b.length : Int) ≤ j then fill
    else 0

/-- Mismatched add: `ADD_sa(a, ALIGN(b, …))` (R47). -/
def addMismatched (a : WordBuf) (fa : Nat) (b : WordBuf) (fb : Nat) (fill : Word) : WordBuf × Bool :=
  addWords a (align b fb a.length fa fill)

/-- Mismatched subtract: `SUB_sa(a, ALIGN(b, …))` (R47). -/
def subMismatched (a : WordBuf) (fa : Nat) (b : WordBuf) (fb : Nat) (fill : Word) : WordBuf × Bool :=
  subWords a (align b fb a.length fa fill)

/-- `NEG_n(a)`: invert every bit, then add one to word 0; the carry is discarded (R48). -/
def negWords (a : WordBuf) : WordBuf :=
  (addWords (a.map fun w => w ^^^ 0xFFFFFFFF) (buf a.length 1)).1

/-! ## The shifters, by their closed forms (R52: "a model should implement the closed forms") -/

/-- `SHL_n(a, cnt)` (R49). -/
def shlWords (a : WordBuf) (cnt : Nat) : WordBuf :=
  if 32 * a.length ≤ cnt then buf a.length 0 else buf a.length (uval a * 2 ^ cnt)

/-- `SHRU_n(a, cnt)` (R50). -/
def shrUWords (a : WordBuf) (cnt : Nat) : WordBuf :=
  if 32 * a.length ≤ cnt then buf a.length 0 else buf a.length (uval a / 2 ^ cnt)

/-- `SHRS_n(a, cnt)` (R51); integer `/` by a positive number is the floor. -/
def shrSWords (a : WordBuf) (cnt : Nat) : WordBuf :=
  if 32 * a.length ≤ cnt then
    if signBit a then buf a.length (2 ^ (32 * a.length) - 1) else buf a.length 0
  else bufInt a.length (sval a / 2 ^ cnt)

/-! ## The comparators -/

/-- `WORDAT(x, sx, fx, p, fillx)`: the word of `x` at weight `2^(32p)` (R53). -/
def wordAt (x : WordBuf) (fx : Nat) (p : Int) (fill : Word) : Word :=
  let idx : Int := p + fx
  if 0 ≤ idx ∧ idx < x.length then x.getD idx.toNat 0
  else if (x.length : Int) ≤ idx then fill
  else 0

/-- The scan of R53 from weight position `lo + n - 1` down to `lo`: the first unequal pair of words decides. -/
def scanGreater (a : WordBuf) (fa : Nat) (filla : Word) (b : WordBuf) (fb : Nat) (fillb : Word) (lo : Int) :
    Nat → Bool
  | 0 => false
  | n + 1 =>
    let wa := wordAt a fa (lo + n) filla
    let wb := wordAt b fb (lo + n) fillb
    if wb < wa then true
    else if wa < wb then false
    else scanGreater a fa filla b fb fillb lo n

/-- The lowest weight position that either operand covers (`lo` of R53). -/
def scanLow (fa fb : Nat) : Int := min (-(fa : Int)) (-(fb : Int))

/-- How many weight positions the scan covers: `hi - lo + 1` (R53). -/
def scanCount (a : WordBuf) (fa : Nat) (b : WordBuf) (fb : Nat) : Nat :=
  (max ((a.length : Int) - fa) ((b.length : Int) - fb) - scanLow fa fb).toNat

/-- `GTU(a, sa, fa, b, sb, fb)`: unsigned greater-than (R53). -/
def gtU (a : WordBuf) (fa : Nat) (b : WordBuf) (fb : Nat) : Bool :=
  scanGreater a fa 0 b fb 0 (scanLow fa fb) (scanCount a fa b fb)

/-- `LTU(a, sa, fa, b, sb, fb)` (R53). -/
def ltU (a : WordBuf) (fa : Nat) (b : WordBuf) (fb : Nat) : Bool := gtU b fb a fa

/-- The fill word of a signed operand: its sign bit replicated (R54). -/
def signFill (b : WordBuf) : Word := if signBit b then 0xFFFFFFFF else 0

/-- `GTS(a, sa, fa, b, sb, fb)`: signed greater-than; opposite signs decide, else the scan (R54). -/
def gtS (a : WordBuf) (fa : Nat) (b : WordBuf) (fb : Nat) : Bool :=
  if signBit a ≠ signBit b then signBit b
  else scanGreater a fa (signFill a) b fb (signFill b) (scanLow fa fb) (scanCount a fa b fb)

/-- `LTS(a, sa, fa, b, sb, fb)` (R54). -/
def ltS (a : WordBuf) (fa : Nat) (b : WordBuf) (fb : Nat) : Bool := gtS b fb a fa

/-! ## Bit accessors, zero test, extension -/

/-- `GETBIT(a, n, idx, variant)` (R55). -/
def getBit (a : WordBuf) (idx : Int) (v : Variant) : Bool :=
  if idx < 0 then false
  else if (32 * a.length : Int) ≤ idx then
    match v with
    | .U => false
    | .S => signBit a
  else bitAt a idx.toNat

/-- `GETMSB(a, n)`: bit `32n - 1` (R56). -/
def getMsb (a : WordBuf) : Bool := signBit a

/-- `GETLSB(a, n)`: bit 0 (R56). -/
def getLsb (a : WordBuf) : Bool := bitAt a 0

/-- `SETMSB(a, n)`: bit `32n - 1` set to 1, every other bit unchanged (R56, D18). -/
def setMsb (a : WordBuf) : WordBuf :=
  a.set (a.length - 1) (a.getD (a.length - 1) 0 ||| 0x80000000)

/-- `ISZERO(a, n)`: every word is 0 (R57). -/
def isZero (a : WordBuf) : Bool := a.all fun w => w == 0

/-- `MAKEZERO(n)` (R57). -/
def makeZero (n : Nat) : WordBuf := List.replicate n 0

/-- `EXT_m(b, sb, variant)`: zero or sign extension to `m` words (R58). -/
def ext (m : Nat) (b : WordBuf) (v : Variant) : WordBuf :=
  b ++ List.replicate (m - b.length)
    (match v with
     | .U => 0
     | .S => signFill b)

end Sys2Proof.Machine
end

