-- ==== Sys2Proof/Machine/Engines.lean ====
section
/-! DEFINITION. The three engines as the commands use them: the multiplier and the divider by their closed forms
(44_multiply.md R95 and 45_divide.md R103 ask a model to implement these), the square-root engine by its procedure
(46_sqrt.md R109, R112). The loops of the first two are in Mechanism.lean (log entry 16). -/

namespace Sys2Proof.Machine

/-- `MULTIPLY(so, a, sa, b, sb, variant) = buf_so(E(a) · E(b))` (R95). -/
def multiply (so : Nat) (a b : WordBuf) (v : Variant) : WordBuf := bufInt so (reading v a * reading v b)

/-- `DIVIDE(so, dividend, sa, divisor, sb)`: zero for a zero divisor (R100), else the floor of the quotient of the two
unsigned integers, reduced to `so` words (R103). -/
def divide (so : Nat) (dividend divisor : WordBuf) : WordBuf :=
  if isZero divisor then makeZero so else buf so (uval dividend / uval divisor)

/-- The fixed-point division of R104: the dividend is widened by one zero low word, the quotient is 4 words. -/
def divideFx (a b : WordBuf) : WordBuf := divide 4 (0 :: a) b

/-- The signed division of R105 and R107: divide magnitudes, negate the quotient when the signs differ. `unsignedDivide`
is the unsigned division of the two magnitudes. -/
def divideSigned (unsignedDivide : WordBuf → WordBuf → WordBuf) (a b : WordBuf) : WordBuf :=
  let ma := if signBit a then negWords a else a
  let mb := if signBit b then negWords b else b
  let q := unsignedDivide ma mb
  if signBit a ≠ signBit b then negWords q else q

/-! ## The square-root engine (R109) -/

/-- Right-shift `w` one bit at a time until it is zero, counting; `fuel` bounds the shifts (a buffer of `n` words
becomes zero after at most `32n`). -/
def shiftsToZero : (fuel : Nat) → WordBuf → Nat
  | 0, _ => 0
  | fuel + 1, w => if isZero w then 0 else shiftsToZero fuel (shrUWords w 1) + 1

/-- The count `i` of R109: the bit length of the operand. -/
def bitLength (v : WordBuf) : Nat := shiftsToZero (32 * v.length) v

/-- The first estimate: the operand shifted right by SQRT_SEED_SHIFT(i). -/
def sqrtSeed (v : WordBuf) : WordBuf := shrUWords v (Config.sqrtSeedShift (bitLength v))

/-- `delta = (value >> 1) / estimate − (estimate >> 1)`, the borrow ignored. -/
def sqrtDelta (half est : WordBuf) : WordBuf := (subWords (divideFx half est) (shrUWords est 1)).1

/-- The stop test: `delta` with bit 0 cleared is all zero. -/
def sqrtConverged (delta : WordBuf) : Bool :=
  match delta with
  | [] => true
  | w :: ws => (w &&& 0xFFFFFFFE) == 0 && isZero ws

/-- One division step from the estimate `est`: `none` when it has converged (`delta` is then not added), else the next
estimate. -/
def sqrtStep (half est : WordBuf) : Option WordBuf :=
  let delta := sqrtDelta half est
  if sqrtConverged delta then none else some (addWords est delta).1

/-- The refinement loop with the number of division steps still allowed: at the cap it answers the estimate it has. -/
def sqrtLoop (half : WordBuf) : (left : Nat) → WordBuf → WordBuf
  | 0, est => est
  | left + 1, est =>
    match sqrtStep half est with
    | none => est
    | some est' => sqrtLoop half left est'

/-- The estimate on which division step `n` (counted from 0) works, if the engine reaches that step. -/
def sqrtEstimate (half seed : WordBuf) : Nat → Option WordBuf
  | 0 => some seed
  | n + 1 =>
    match sqrtEstimate half seed n with
    | none => none
    | some est => sqrtStep half est

/-- `SQRT_FX(v)` (R109). -/
def sqrtFx (v : WordBuf) : WordBuf :=
  if isZero v then makeZero 4
  else sqrtLoop (shrUWords v 1) Config.nSqrt (sqrtSeed v)

end Sys2Proof.Machine
end

