-- ==== Sys2Proof/Machine/Ops.lean ====
section
/-! DEFINITION. The named operations over the state: register access, RDATA, taking a host input, retiring a command,
and reset. There is no memory (20_memory.md R23) and no exception to take or return from (60_exceptions.md R126 to
R131), so neither has an operation here. -/

namespace Sys2Proof.Machine

/-! ## The register file (R10 to R13) -/

/-- `x[r]`: the four words of a register. Every register holds a value, written or not (log entry 1). -/
def State.x (s : State) (r : Reg) : Quad := s.regs[r]

/-- `x[r].w[k]`: one word of a register. -/
def State.word (s : State) (r : Reg) (k : WordIx) : Word := quadWord (s.x r) k

/-- The written marks of a register's four words (R13). -/
def State.marks (s : State) (r : Reg) : Vector Bool 4 := s.written[r]

/-- Whether a command has written word `k` of register `r` since reset (R13). -/
def State.isWritten (s : State) (r : Reg) (k : WordIx) : Bool := (s.marks r)[k]

/-- `x[r] <- q`: all four words are written and marked written (R8, R13). -/
def State.writeX (s : State) (r : Reg) (q : Quad) : State :=
  { s with
    regs := s.regs.set r q
    written := s.written.set r (Vector.replicate 4 true) }

/-- `x[r].w[k] <- w`: that word only is written and marked written (R8, R13, R115). -/
def State.writeWord (s : State) (r : Reg) (k : WordIx) (w : Word) : State :=
  { s with
    regs := s.regs.set r (quadSetWord (s.x r) k w)
    written := s.written.set r ((s.marks r).set k true) }

/-- `RDATA <- w` (R18). -/
def State.setRdata (s : State) (w : Word) : State := { s with rdata := w }

/-! ## The ports (30_encoding.md R42) -/

/-- The host's input has been taken; `rest` is what it still has to present. -/
def State.takeInput (s : State) (rest : List HostInput) : State := { s with inputs := rest }

/-- The command retires: `rsp_valid` is high for that cycle (R42). -/
def State.retire (s : State) : State := { s with rspValid := true }

/-- Nothing was presented: "the unit is idle with `cmd_ready` high and all state held" (60_exceptions.md R137); no
command retired, so `rsp_valid` is low. -/
def State.stayIdle (s : State) : State := { s with rspValid := false }

/-- The unit's output ports between two steps (R42). -/
structure OutputPorts where
  cmdReady : Bool
  rspValid : Bool
  rdata : Word
  /-- `status[0]` = C. -/
  status0 : Bool
  /-- `status[1]` = T. -/
  status1 : Bool
deriving DecidableEq, Repr

/-- What the ports show: `cmd_ready` is high because every State is the unit between two commands (log entry 4). -/
def State.ports (s : State) : OutputPorts :=
  ⟨true, s.rspValid, s.rdata, s.status.c, s.status.t⟩

/-! ## Reset (70_reset_and_hazards.md R140, R145) -/

/-- The content of register `r` after the `n`-th assertion of `rst`: four free words (log entry 2). -/
def quadAfterRst (n : Nat) (r : Reg) : Quad :=
  ⟨Config.wordAfterRst n r 0, Config.wordAfterRst n r 1, Config.wordAfterRst n r 2, Config.wordAfterRst n r 3⟩

/-- `rst` was high at a clock edge: STATUS and RDATA 0, `rsp_valid` low, every register word unspecified and marked
unwritten (R140, R22). -/
def State.enterReset (s : State) : State :=
  { regs := Vector.ofFn (quadAfterRst s.resets)
    written := Vector.replicate 16 (Vector.replicate 4 false)
    status := ⟨false, false⟩
    rdata := 0
    rspValid := false
    inputs := s.inputs
    resets := s.resets + 1 }

/-- Whether a command in flight is one the host must never issue, and why (R37). -/
def reservedInFlight : Option Command → Option Reserved
  | none => none
  | some c =>
    match decode c with
    | .command _ => none
    | .reserved why => some why

end Sys2Proof.Machine
end

