-- ==== Sys2Proof/Machine/Flags.lean ====
section
/-! DEFINITION. STATUS: its two bits and how they are read and written (10_state.md R15 to R17). What a carry-out, a
borrow-out or a comparison IS stands in Primitives.lean (R44, R45, R53 to R57). -/

namespace Sys2Proof.Machine

/-- `STATUS.C <- c` (R16). -/
def State.setC (s : State) (c : Bool) : State := { s with status := { s.status with c := c } }

/-- `STATUS.T <- t` (R17). -/
def State.setT (s : State) (t : Bool) : State := { s with status := { s.status with t := t } }

/-- STATUS as the 32-bit word `RDS` returns: bit 0 is C, bit 1 is T, the rest 0 (47_move_convert_host.md R121). -/
def statusWord (st : Status) : Word := BitVec.ofNat 32 (st.c.toNat + 2 * st.t.toNat)

end Sys2Proof.Machine
end

