-- ==== Sys2Proof/Machine/Operands.lean ====
section
/-! DEFINITION. The operand forms (30_encoding.md R34, R35) and the forms of a command's result, shared by every
meaning. -/

namespace Sys2Proof.Machine

/-! ## Sources -/

/-- A source register as a 4-word buffer. -/
def State.xWords (s : State) (r : Reg) : WordBuf := quadWords (s.x r)

/-- A plain unsigned integer IW lined up with a register's word 1: `[0, IW, 0, 0]` (R35, 40_word_array_primitives.md
R46). -/
def alignedImmU (iw : Word) : WordBuf := align [iw] 0 4 1 0

/-- The fill word of a plain signed integer: `IW[31]` replicated (41_add_sub.md R63). -/
def immFill (iw : Word) : Word := if iw.getLsbD 31 then 0xFFFFFFFF else 0

/-- A plain signed integer IW lined up with a register's word 1: `[0, IW, fill, fill]` (R35, R46, R63, D12). -/
def alignedImmS (iw : Word) : WordBuf := align [iw] 0 4 1 (immFill iw)

/-- A shift count: IW unsigned, not masked (R35, D21). -/
def shiftCount (iw : Word) : Nat := iw.toNat

/-- A bit index: IW signed (R35, D20). -/
def bitIndex (iw : Word) : Int := signedImm iw

/-- The number one, raw `2^32`, that `INC` and `DEC` add and subtract (41_add_sub.md R67, R68, D13). -/
def oneWords : WordBuf := [0, 1, 0, 0]

/-! ## Results -/

/-- `x[rd] <- out`, nothing else. -/
def writeResult (rd : Reg) (out : WordBuf) (s : State) : Result := .next (s.writeX rd (quadOf out))

/-- `(out, c)`: `x[rd] <- out; STATUS.C <- c`. -/
def writeResultC (rd : Reg) (out : WordBuf × Bool) (s : State) : Result :=
  .next ((s.writeX rd (quadOf out.1)).setC out.2)

/-- `STATUS.T <- t`, nothing else. -/
def writeTest (t : Bool) (s : State) : Result := .next (s.setT t)

/-- `RDATA <- w`, nothing else. -/
def writeRdata (w : Word) (s : State) : Result := .next (s.setRdata w)

end Sys2Proof.Machine
end

