-- ==== Sys2Proof/Machine/AddSub.lean ====
section
/-! DEFINITION. Add, subtract, negate, increment, decrement (41_add_sub.md R60 to R68). -/

namespace Sys2Proof.Machine

/-- `ADD rd, ra, rb` (R60). -/
def execAdd (rd ra rb : Reg) (s : State) : Result := writeResultC rd (addWords (s.xWords ra) (s.xWords rb)) s

/-- `SUB rd, ra, rb` (R61). -/
def execSub (rd ra rb : Reg) (s : State) : Result := writeResultC rd (subWords (s.xWords ra) (s.xWords rb)) s

/-- `ADDI.U rd, ra, #imm` (R62). -/
def execAddiU (rd ra : Reg) (imm : Word) (s : State) : Result :=
  writeResultC rd (addWords (s.xWords ra) (alignedImmU imm)) s

/-- `ADDI.S rd, ra, #imm` (R63). -/
def execAddiS (rd ra : Reg) (imm : Word) (s : State) : Result :=
  writeResultC rd (addWords (s.xWords ra) (alignedImmS imm)) s

/-- `SUBI.U rd, ra, #imm` (R64). -/
def execSubiU (rd ra : Reg) (imm : Word) (s : State) : Result :=
  writeResultC rd (subWords (s.xWords ra) (alignedImmU imm)) s

/-- `SUBI.S rd, ra, #imm` (R65). -/
def execSubiS (rd ra : Reg) (imm : Word) (s : State) : Result :=
  writeResultC rd (subWords (s.xWords ra) (alignedImmS imm)) s

/-- `NEG rd, ra` (R66); C is not written. -/
def execNeg (rd ra : Reg) (s : State) : Result := writeResult rd (negWords (s.xWords ra)) s

/-- `INC rd, ra` (R67). -/
def execInc (rd ra : Reg) (s : State) : Result := writeResultC rd (addWords (s.xWords ra) oneWords) s

/-- `DEC rd, ra` (R68). -/
def execDec (rd ra : Reg) (s : State) : Result := writeResultC rd (subWords (s.xWords ra) oneWords) s

end Sys2Proof.Machine
end

