-- ==== Sys2Proof/Machine/CompareTest.lean ====
section
/-! DEFINITION. Comparisons, tests and bit access (43_compare_test.md R77 to R92). Both operands of a comparison have
the shape (4 words, 1 fractional word). -/

namespace Sys2Proof.Machine

/-- `CEQ ra, rb` (R77). -/
def execCeq (ra rb : Reg) (s : State) : Result := writeTest (s.xWords ra == s.xWords rb) s

/-- `CNE ra, rb` (R78). -/
def execCne (ra rb : Reg) (s : State) : Result := writeTest (!(s.xWords ra == s.xWords rb)) s

/-- `CLT.U ra, rb` (R79). -/
def execCltU (ra rb : Reg) (s : State) : Result := writeTest (ltU (s.xWords ra) 1 (s.xWords rb) 1) s

/-- `CLT.S ra, rb` (R80). -/
def execCltS (ra rb : Reg) (s : State) : Result := writeTest (ltS (s.xWords ra) 1 (s.xWords rb) 1) s

/-- `CGT.U ra, rb` (R81). -/
def execCgtU (ra rb : Reg) (s : State) : Result := writeTest (gtU (s.xWords ra) 1 (s.xWords rb) 1) s

/-- `CGT.S ra, rb` (R82). -/
def execCgtS (ra rb : Reg) (s : State) : Result := writeTest (gtS (s.xWords ra) 1 (s.xWords rb) 1) s

/-- `CLE.U ra, rb`: not greater (R83). -/
def execCleU (ra rb : Reg) (s : State) : Result := writeTest (!gtU (s.xWords ra) 1 (s.xWords rb) 1) s

/-- `CLE.S ra, rb`: not greater (R84). -/
def execCleS (ra rb : Reg) (s : State) : Result := writeTest (!gtS (s.xWords ra) 1 (s.xWords rb) 1) s

/-- `CGE.U ra, rb`: not smaller (R85). -/
def execCgeU (ra rb : Reg) (s : State) : Result := writeTest (!ltU (s.xWords ra) 1 (s.xWords rb) 1) s

/-- `CGE.S ra, rb`: not smaller (R86). -/
def execCgeS (ra rb : Reg) (s : State) : Result := writeTest (!ltS (s.xWords ra) 1 (s.xWords rb) 1) s

/-- `TZ ra` (R87). -/
def execTz (ra : Reg) (s : State) : Result := writeTest (isZero (s.xWords ra)) s

/-- `TBIT.U ra, #imm` (R88). -/
def execTbitU (ra : Reg) (imm : Word) (s : State) : Result :=
  writeTest (getBit (s.xWords ra) (bitIndex imm) .U) s

/-- `TBIT.S ra, #imm` (R89). -/
def execTbitS (ra : Reg) (imm : Word) (s : State) : Result :=
  writeTest (getBit (s.xWords ra) (bitIndex imm) .S) s

/-- `TMSB ra` (R90). -/
def execTmsb (ra : Reg) (s : State) : Result := writeTest (getMsb (s.xWords ra)) s

/-- `TLSB ra` (R91). -/
def execTlsb (ra : Reg) (s : State) : Result := writeTest (getLsb (s.xWords ra)) s

/-- `SMSB rd, ra` (R92). -/
def execSmsb (rd ra : Reg) (s : State) : Result := writeResult rd (setMsb (s.xWords ra)) s

end Sys2Proof.Machine
end

