-- ==== Sys2Proof/Machine/MoveHost.lean ====
section
/-! DEFINITION. Move, load, read-back and conversion (47_move_convert_host.md R113 to R121). -/

namespace Sys2Proof.Machine

/-- `MOV rd, ra` (R113). -/
def execMov (rd ra : Reg) (s : State) : Result := writeResult rd (s.xWords ra) s

/-- `MKZ rd` (R114). -/
def execMkz (rd : Reg) (s : State) : Result := writeResult rd (makeZero 4) s

/-- `WRW rd[k], #imm` (R115). -/
def execWrw (rd : Reg) (k : WordIx) (imm : Word) (s : State) : Result := .next (s.writeWord rd k imm)

/-- `RDW ra[k]` (R116). -/
def execRdw (ra : Reg) (k : WordIx) (s : State) : Result := writeRdata (s.word ra k) s

/-- `LDI.U rd, #imm` (R117): `[0, IW, 0, 0]`. -/
def execLdiU (rd : Reg) (imm : Word) (s : State) : Result := writeResult rd [0, imm, 0, 0] s

/-- `LDI.S rd, #imm` (R118): `[0, IW, fill, fill]`. -/
def execLdiS (rd : Reg) (imm : Word) (s : State) : Result :=
  writeResult rd [0, imm, immFill imm, immFill imm] s

/-- `TOI.U ra` (R119): word 1. Log entry 11 on values that do not fit (U5). -/
def execToiU (ra : Reg) (s : State) : Result := writeRdata (s.word ra 1) s

/-- The signed conversion of R120: through the magnitude, so that it truncates toward zero. -/
def toiSigned (q : Quad) : Word :=
  if signBit (quadWords q) then 0 - (negWords (quadWords q)).getD 1 0 else q.w1

/-- `TOI.S ra` (R120). Log entry 11 on values that do not fit (U5). -/
def execToiS (ra : Reg) (s : State) : Result := writeRdata (toiSigned (s.x ra)) s

/-- `RDS` (R121). -/
def execRds (s : State) : Result := writeRdata (statusWord s.status) s

end Sys2Proof.Machine
end

