-- ==== Sys2Proof/Machine/MulDivSqrt.lean ====
section
/-! DEFINITION. The multiply (44_multiply.md R96 to R99), divide (45_divide.md R104 to R107) and square-root
(46_sqrt.md R110, R111) commands. None writes STATUS or RDATA. -/

namespace Sys2Proof.Machine

/-- Words 1 to 4 of a 5-word product: "narrows by discarding the lowest word and keeping the next four" (R96). -/
def narrowProduct (p : WordBuf) : WordBuf := (p.drop 1).take 4

/-- `MUL.U rd, ra, rb` (R96). -/
def execMulU (rd ra rb : Reg) (s : State) : Result :=
  writeResult rd (narrowProduct (multiply 5 (s.xWords ra) (s.xWords rb) .U)) s

/-- `MUL.S rd, ra, rb` (R97). -/
def execMulS (rd ra rb : Reg) (s : State) : Result :=
  writeResult rd (narrowProduct (multiply 5 (s.xWords ra) (s.xWords rb) .S)) s

/-- `MULI.U rd, ra, #imm` (R98). -/
def execMuliU (rd ra : Reg) (imm : Word) (s : State) : Result :=
  writeResult rd (multiply 4 [imm] (s.xWords ra) .U) s

/-- `MULI.S rd, ra, #imm` (R99). -/
def execMuliS (rd ra : Reg) (imm : Word) (s : State) : Result :=
  writeResult rd (multiply 4 [imm] (s.xWords ra) .S) s

/-- `DIV.U rd, ra, rb` (R104). -/
def execDivU (rd ra rb : Reg) (s : State) : Result := writeResult rd (divideFx (s.xWords ra) (s.xWords rb)) s

/-- `DIV.S rd, ra, rb` (R105). Log entry 9 on the most negative operand (U3). -/
def execDivS (rd ra rb : Reg) (s : State) : Result :=
  writeResult rd (divideSigned divideFx (s.xWords ra) (s.xWords rb)) s

/-- `DIVI.U rd, ra, #imm` (R106). -/
def execDiviU (rd ra : Reg) (imm : Word) (s : State) : Result := writeResult rd (divide 4 (s.xWords ra) [imm]) s

/-- `DIVI.S rd, ra, #imm` (R107). Log entry 9 on the most negative operand (U3). -/
def execDiviS (rd ra : Reg) (imm : Word) (s : State) : Result :=
  writeResult rd (divideSigned (divide 4) (s.xWords ra) [imm]) s

/-- `SQRT.U rd, ra` (R110). -/
def execSqrtU (rd ra : Reg) (s : State) : Result := writeResult rd (sqrtFx (s.xWords ra)) s

/-- `SQRT.S rd, ra` (R111): the sign test comes first (60_exceptions.md R128). -/
def execSqrtS (rd ra : Reg) (s : State) : Result :=
  writeResult rd (if signBit (s.xWords ra) then makeZero 4 else sqrtFx (s.xWords ra)) s

end Sys2Proof.Machine
end

