-- ==== Sys2Proof/Machine/ShiftBitwise.lean ====
section
/-! DEFINITION. Shifts and bitwise commands (42_shift_bitwise.md R70 to R76; what the four bitwise words mean: G1, log
entry 17). -/

namespace Sys2Proof.Machine

/-- `SHL rd, ra, #imm` (R70). -/
def execShl (rd ra : Reg) (imm : Word) (s : State) : Result :=
  writeResult rd (shlWords (s.xWords ra) (shiftCount imm)) s

/-- `SHR.U rd, ra, #imm` (R71). -/
def execShrU (rd ra : Reg) (imm : Word) (s : State) : Result :=
  writeResult rd (shrUWords (s.xWords ra) (shiftCount imm)) s

/-- `SHR.S rd, ra, #imm` (R72). -/
def execShrS (rd ra : Reg) (imm : Word) (s : State) : Result :=
  writeResult rd (shrSWords (s.xWords ra) (shiftCount imm)) s

/-- `AND rd, ra, rb`, word by word (R73). -/
def execAnd (rd ra rb : Reg) (s : State) : Result :=
  writeResult rd (List.zipWith (fun a b => a &&& b) (s.xWords ra) (s.xWords rb)) s

/-- `OR rd, ra, rb`, word by word (R74). -/
def execOr (rd ra rb : Reg) (s : State) : Result :=
  writeResult rd (List.zipWith (fun a b => a ||| b) (s.xWords ra) (s.xWords rb)) s

/-- `XOR rd, ra, rb`, word by word (R75). -/
def execXor (rd ra rb : Reg) (s : State) : Result :=
  writeResult rd (List.zipWith (fun a b => a ^^^ b) (s.xWords ra) (s.xWords rb)) s

/-- `NOT rd, ra`, word by word (R76). -/
def execNot (rd ra : Reg) (s : State) : Result :=
  writeResult rd ((s.xWords ra).map fun a => a ^^^ 0xFFFFFFFF) s

end Sys2Proof.Machine
end

