-- ==== Sys2Proof/Machine/Dispatch.lean ====
section
/-! DEFINITION. exec: one arm per command of the opcode table, each one direct call of its meaning. -/

namespace Sys2Proof.Machine

def exec (i : Instr) (s : State) : Host.Outcome State Fault Refusal :=
  match i with
  | .mov rd ra => Sys2Proof.Machine.execMov rd ra s
  | .mkz rd => Sys2Proof.Machine.execMkz rd s
  | .wrw rd k imm => Sys2Proof.Machine.execWrw rd k imm s
  | .rdw ra k => Sys2Proof.Machine.execRdw ra k s
  | .ldiU rd imm => Sys2Proof.Machine.execLdiU rd imm s
  | .ldiS rd imm => Sys2Proof.Machine.execLdiS rd imm s
  | .toiU ra => Sys2Proof.Machine.execToiU ra s
  | .toiS ra => Sys2Proof.Machine.execToiS ra s
  | .rds => Sys2Proof.Machine.execRds s
  | .add rd ra rb => Sys2Proof.Machine.execAdd rd ra rb s
  | .sub rd ra rb => Sys2Proof.Machine.execSub rd ra rb s
  | .addiU rd ra imm => Sys2Proof.Machine.execAddiU rd ra imm s
  | .addiS rd ra imm => Sys2Proof.Machine.execAddiS rd ra imm s
  | .subiU rd ra imm => Sys2Proof.Machine.execSubiU rd ra imm s
  | .subiS rd ra imm => Sys2Proof.Machine.execSubiS rd ra imm s
  | .neg rd ra => Sys2Proof.Machine.execNeg rd ra s
  | .inc rd ra => Sys2Proof.Machine.execInc rd ra s
  | .dec rd ra => Sys2Proof.Machine.execDec rd ra s
  | .shl rd ra imm => Sys2Proof.Machine.execShl rd ra imm s
  | .shrU rd ra imm => Sys2Proof.Machine.execShrU rd ra imm s
  | .shrS rd ra imm => Sys2Proof.Machine.execShrS rd ra imm s
  | .and rd ra rb => Sys2Proof.Machine.execAnd rd ra rb s
  | .or rd ra rb => Sys2Proof.Machine.execOr rd ra rb s
  | .xor rd ra rb => Sys2Proof.Machine.execXor rd ra rb s
  | .not rd ra => Sys2Proof.Machine.execNot rd ra s
  | .ceq ra rb => Sys2Proof.Machine.execCeq ra rb s
  | .cne ra rb => Sys2Proof.Machine.execCne ra rb s
  | .cltU ra rb => Sys2Proof.Machine.execCltU ra rb s
  | .cltS ra rb => Sys2Proof.Machine.execCltS ra rb s
  | .cgtU ra rb => Sys2Proof.Machine.execCgtU ra rb s
  | .cgtS ra rb => Sys2Proof.Machine.execCgtS ra rb s
  | .cleU ra rb => Sys2Proof.Machine.execCleU ra rb s
  | .cleS ra rb => Sys2Proof.Machine.execCleS ra rb s
  | .cgeU ra rb => Sys2Proof.Machine.execCgeU ra rb s
  | .cgeS ra rb => Sys2Proof.Machine.execCgeS ra rb s
  | .tz ra => Sys2Proof.Machine.execTz ra s
  | .tbitU ra imm => Sys2Proof.Machine.execTbitU ra imm s
  | .tbitS ra imm => Sys2Proof.Machine.execTbitS ra imm s
  | .tmsb ra => Sys2Proof.Machine.execTmsb ra s
  | .tlsb ra => Sys2Proof.Machine.execTlsb ra s
  | .smsb rd ra => Sys2Proof.Machine.execSmsb rd ra s
  | .mulU rd ra rb => Sys2Proof.Machine.execMulU rd ra rb s
  | .mulS rd ra rb => Sys2Proof.Machine.execMulS rd ra rb s
  | .muliU rd ra imm => Sys2Proof.Machine.execMuliU rd ra imm s
  | .muliS rd ra imm => Sys2Proof.Machine.execMuliS rd ra imm s
  | .divU rd ra rb => Sys2Proof.Machine.execDivU rd ra rb s
  | .divS rd ra rb => Sys2Proof.Machine.execDivS rd ra rb s
  | .diviU rd ra imm => Sys2Proof.Machine.execDiviU rd ra imm s
  | .diviS rd ra imm => Sys2Proof.Machine.execDiviS rd ra imm s
  | .sqrtU rd ra => Sys2Proof.Machine.execSqrtU rd ra s
  | .sqrtS rd ra => Sys2Proof.Machine.execSqrtS rd ra s

end Sys2Proof.Machine
end

