-- ==== Sys2Proof/Machine/Step.lean ====
section
/-! DEFINITION. One step: the unit takes the host's next input (10_state.md R14, 20_memory.md R27, 30_encoding.md R42).
A command is accepted, executed and retired in one step (70_reset_and_hazards.md R144, log entry 4). -/

namespace Sys2Proof.Machine

/-- One step of the machine. -/
def step (s : State) : Host.Outcome State Fault Refusal :=
  match s.inputs with
  | [] => .next s.stayIdle
  | .idle :: rest => .next (s.takeInput rest).stayIdle
  | .command c :: rest =>
    match decode c with
    | .reserved why => .refused (.reservedCommand why)
    | .command i =>
      match exec i (s.takeInput rest) with
      | .next t => .next t.retire
      | .fault f => .fault f
      | .refused r => .refused r
  | .rst inFlight :: rest =>
    match reservedInFlight inFlight with
    | some why => .refused (.reservedCommand why)
    | none => .next (s.takeInput rest).enterReset

/-- The host presents, as its next input, the command whose low `nbits` bits are `w` and whose higher bits are 0: the
very next step runs it. Nothing else changes (log entry 3). -/
def State.withFetchWord (s : State) (nbits w : Nat) : State :=
  { s with inputs := .command (commandOfBits (w % 2 ^ nbits)) :: s.inputs }

end Sys2Proof.Machine
end

