-- ==== Sys2Proof/Machine/Assembler.lean ====
section
/-! DEFINITION. Host-side notation: the assembler's syntax and pseudo-instructions (30_encoding.md R40, R41) and the
exact rational part of the conversions of 47_move_convert_host.md R122 and R123. Nothing here is hardware state, and
no command uses it. -/

namespace Sys2Proof.Machine

/-! ## Syntax (R40) -/

/-- A register's name, `x0` to `x15`. -/
def asmReg (r : Reg) : String := "x" ++ toString r.val

/-- A register word, `x3[1]`. -/
def asmRegWord (r : Reg) (k : WordIx) : String := asmReg r ++ "[" ++ toString k.val ++ "]"

/-- An immediate in decimal, under the reading of R35. -/
def asmImm (v : Variant) (imm : Word) : String :=
  match v with
  | .U => "#" ++ toString imm.toNat
  | .S => "#" ++ toString (signedImm imm)

/-- The operands of a command, in the order of its format (R34, R40). -/
def asmOperands : Instr → List String
  | .mov rd ra => [asmReg rd, asmReg ra]
  | .mkz rd => [asmReg rd]
  | .wrw rd k imm => [asmRegWord rd k, asmImm .U imm]
  | .rdw ra k => [asmRegWord ra k]
  | .ldiU rd imm => [asmReg rd, asmImm .U imm]
  | .ldiS rd imm => [asmReg rd, asmImm .S imm]
  | .toiU ra => [asmReg ra]
  | .toiS ra => [asmReg ra]
  | .rds => []
  | .add rd ra rb => [asmReg rd, asmReg ra, asmReg rb]
  | .sub rd ra rb => [asmReg rd, asmReg ra, asmReg rb]
  | .addiU rd ra imm => [asmReg rd, asmReg ra, asmImm .U imm]
  | .addiS rd ra imm => [asmReg rd, asmReg ra, asmImm .S imm]
  | .subiU rd ra imm => [asmReg rd, asmReg ra, asmImm .U imm]
  | .subiS rd ra imm => [asmReg rd, asmReg ra, asmImm .S imm]
  | .neg rd ra => [asmReg rd, asmReg ra]
  | .inc rd ra => [asmReg rd, asmReg ra]
  | .dec rd ra => [asmReg rd, asmReg ra]
  | .shl rd ra imm => [asmReg rd, asmReg ra, asmImm .U imm]
  | .shrU rd ra imm => [asmReg rd, asmReg ra, asmImm .U imm]
  | .shrS rd ra imm => [asmReg rd, asmReg ra, asmImm .U imm]
  | .and rd ra rb => [asmReg rd, asmReg ra, asmReg rb]
  | .or rd ra rb => [asmReg rd, asmReg ra, asmReg rb]
  | .xor rd ra rb => [asmReg rd, asmReg ra, asmReg rb]
  | .not rd ra => [asmReg rd, asmReg ra]
  | .ceq ra rb => [asmReg ra, asmReg rb]
  | .cne ra rb => [asmReg ra, asmReg rb]
  | .cltU ra rb => [asmReg ra, asmReg rb]
  | .cltS ra rb => [asmReg ra, asmReg rb]
  | .cgtU ra rb => [asmReg ra, asmReg rb]
  | .cgtS ra rb => [asmReg ra, asmReg rb]
  | .cleU ra rb => [asmReg ra, asmReg rb]
  | .cleS ra rb => [asmReg ra, asmReg rb]
  | .cgeU ra rb => [asmReg ra, asmReg rb]
  | .cgeS ra rb => [asmReg ra, asmReg rb]
  | .tz ra => [asmReg ra]
  | .tbitU ra imm => [asmReg ra, asmImm .S imm]
  | .tbitS ra imm => [asmReg ra, asmImm .S imm]
  | .tmsb ra => [asmReg ra]
  | .tlsb ra => [asmReg ra]
  | .smsb rd ra => [asmReg rd, asmReg ra]
  | .mulU rd ra rb => [asmReg rd, asmReg ra, asmReg rb]
  | .mulS rd ra rb => [asmReg rd, asmReg ra, asmReg rb]
  | .muliU rd ra imm => [asmReg rd, asmReg ra, asmImm .U imm]
  | .muliS rd ra imm => [asmReg rd, asmReg ra, asmImm .S imm]
  | .divU rd ra rb => [asmReg rd, asmReg ra, asmReg rb]
  | .divS rd ra rb => [asmReg rd, asmReg ra, asmReg rb]
  | .diviU rd ra imm => [asmReg rd, asmReg ra, asmImm .U imm]
  | .diviS rd ra imm => [asmReg rd, asmReg ra, asmImm .S imm]
  | .sqrtU rd ra => [asmReg rd, asmReg ra]
  | .sqrtS rd ra => [asmReg rd, asmReg ra]

/-- One command as a line of assembler (R40). -/
def asmLine (i : Instr) : String :=
  if asmOperands i = [] then i.mnemonic else i.mnemonic ++ " " ++ String.intercalate ", " (asmOperands i)

/-! ## Pseudo-instructions (R41) -/

/-- The pseudo-instructions of R41. -/
inductive Pseudo where
  /-- A variant-free command written with a suffix: `ADD.U`, `CEQ.S`, … -/
  | suffixed (v : Variant) (base : Instr)
  | cvtSU (rd ra : Reg)
  | cvtUS (rd ra : Reg)
  | ldx (rd : Reg) (w3 w2 w1 w0 : Word)
  /-- `LDQ rd, #literal`, the literal as the exact number it writes. -/
  | ldq (rd : Reg) (literal : ℚ)
  | clr (rd : Reg)
  | nop
deriving DecidableEq

/-- The commands that R41 lets be written with `.U` or `.S` although they have no variants. -/
def takesSuffix : Instr → Bool
  | .mov _ _ => false
  | .mkz _ => false
  | .wrw _ _ _ => false
  | .rdw _ _ => false
  | .ldiU _ _ => false
  | .ldiS _ _ => false
  | .toiU _ => false
  | .toiS _ => false
  | .rds => false
  | .add _ _ _ => true
  | .sub _ _ _ => true
  | .addiU _ _ _ => false
  | .addiS _ _ _ => false
  | .subiU _ _ _ => false
  | .subiS _ _ _ => false
  | .neg _ _ => true
  | .inc _ _ => true
  | .dec _ _ => true
  | .shl _ _ _ => true
  | .shrU _ _ _ => false
  | .shrS _ _ _ => false
  | .and _ _ _ => true
  | .or _ _ _ => true
  | .xor _ _ _ => true
  | .not _ _ => true
  | .ceq _ _ => true
  | .cne _ _ => true
  | .cltU _ _ => false
  | .cltS _ _ => false
  | .cgtU _ _ => false
  | .cgtS _ _ => false
  | .cleU _ _ => false
  | .cleS _ _ => false
  | .cgeU _ _ => false
  | .cgeS _ _ => false
  | .tz _ => false
  | .tbitU _ _ => false
  | .tbitS _ _ => false
  | .tmsb _ => false
  | .tlsb _ => false
  | .smsb _ _ => false
  | .mulU _ _ _ => false
  | .mulS _ _ _ => false
  | .muliU _ _ _ => false
  | .muliS _ _ _ => false
  | .divU _ _ _ => false
  | .divS _ _ _ => false
  | .diviU _ _ _ => false
  | .diviS _ _ _ => false
  | .sqrtU _ _ => false
  | .sqrtS _ _ => false

/-- `LDX`: four `WRW`, word 0 first (R41). -/
def expandLdx (rd : Reg) (w3 w2 w1 w0 : Word) : List Instr :=
  [.wrw rd 0 w0, .wrw rd 1 w1, .wrw rd 2 w2, .wrw rd 3 w3]

/-- The raw value of a literal that `LDQ` accepts: its product with `2^32` is an integer `r`, and
`−2^127 ≤ r < 2^128` (R41). -/
def literalRaw (literal : ℚ) : Option Int :=
  let r := literal * 2 ^ 32
  if r.den = 1 ∧ -(2 ^ 127) ≤ r.num ∧ r.num < 2 ^ 128 then some r.num else none

/-- The expansion of a pseudo-instruction, `none` where R41 gives it none. -/
def expandPseudo : Pseudo → Option (List Instr)
  | .suffixed _ base => if takesSuffix base then some [base] else none
  | .cvtSU rd ra => some [.mov rd ra]
  | .cvtUS rd ra => some [.mov rd ra]
  | .ldx rd w3 w2 w1 w0 => some (expandLdx rd w3 w2 w1 w0)
  | .ldq rd literal =>
    match literalRaw literal with
    | some r =>
      let q := quadOfInt r
      some (expandLdx rd q.w3 q.w2 q.w1 q.w0)
    | none => none
  | .clr rd => some [.mkz rd]
  | .nop => some [.mov 0 0]

/-! ## Conversion between numbers and register contents (R122, R123) -/

/-- `to_float` as the exact number it stands for: the words scaled by their positional powers of `2^32`, through the
magnitude for a negative Signed value (R122). The rounding of a double is not modelled (log entry 13). -/
def toNumber (v : Variant) (q : Quad) : ℚ :=
  let scaled (b : WordBuf) : ℚ :=
    (b.getD 0 0).toNat / 2 ^ 32 + (b.getD 1 0).toNat + (b.getD 2 0).toNat * 2 ^ 32 + (b.getD 3 0).toNat * 2 ^ 64
  match v with
  | .U => scaled (quadWords q)
  | .S =>
    if signBit (quadWords q) then -scaled (negWords (quadWords q)) else scaled (quadWords q)

/-- `from_float` on an exact number: `floor(v · 2^32)`, for a negative `v` in the S reading the negation of the
conversion of `−v`; `none` where R123 gives no result. -/
def fromNumber (v : Variant) (x : ℚ) : Option Quad :=
  match v with
  | .U => if 0 ≤ x ∧ x < 2 ^ 96 then some (quadOfInt ⌊x * 2 ^ 32⌋) else none
  | .S =>
    if 0 ≤ x ∧ x < 2 ^ 95 then some (quadOfInt ⌊x * 2 ^ 32⌋)
    else if -(2 ^ 95) ≤ x ∧ x < 0 then some (quadOf (negWords (quadWords (quadOfInt ⌊-x * 2 ^ 32⌋))))
    else none

end Sys2Proof.Machine
end

