-- ==== Sys2Proof/Machine/Mechanism.lean ====
section
/-! DEFINITION. The loops the spec gives for the shifters (40_word_array_primitives.md R52), the multiplier
(44_multiply.md R94) and the divider (45_divide.md R100 to R102). The commands use the closed forms of Primitives.lean
and Engines.lean, which R52, R95 and R103 ask for; Obligations.lean states that each loop agrees with its closed form. -/

namespace Sys2Proof.Machine

/-! ## The three-pass shifters (R52, byte view of 20_memory.md R24) -/

/-- Whole-word pass, leftwards: `a[i] <- a[i-ws]`, 0 where there is none. -/
def wordPassLeft (ws : Nat) (a : WordBuf) : WordBuf :=
  (List.range a.length).map fun i => if ws ≤ i then a.getD (i - ws) 0 else 0

/-- The little-endian byte view of a buffer: byte `j` is bits `8j+7 .. 8j` (R24). -/
def bytesOf : WordBuf → List (BitVec 8)
  | [] => []
  | w :: ws => w.extractLsb' 0 8 :: w.extractLsb' 8 8 :: w.extractLsb' 16 8 :: w.extractLsb' 24 8 :: bytesOf ws

/-- The buffer of a byte view. -/
def ofBytes : List (BitVec 8) → WordBuf
  | b0 :: b1 :: b2 :: b3 :: rest => (b3 ++ b2 ++ b1 ++ b0) :: ofBytes rest
  | _ => []

/-- Whole-byte pass, leftwards: `y[j] <- y[j-bs]`, 0 where there is none. -/
def bytePassLeft (bs : Nat) (a : WordBuf) : WordBuf :=
  let y := bytesOf a
  ofBytes ((List.range y.length).map fun j => if bs ≤ j then y.getD (j - bs) 0 else 0)

/-- Single-bit pass, leftwards: `bits` (0 to 7) cross from each word into the next, `carry` enters word 0. -/
def bitPassLeft (bits : Nat) : (carry : Nat) → WordBuf → WordBuf
  | _, [] => []
  | carry, w :: ws =>
    BitVec.ofNat 32 (w.toNat * 2 ^ bits + carry) :: bitPassLeft bits (w.toNat / 2 ^ (32 - bits)) ws

/-- The left shifter for a count below the width: words, then bytes, then bits (R52). -/
def shiftLeftPasses (a : WordBuf) (cnt : Nat) : WordBuf :=
  bitPassLeft (cnt % 8) 0 (bytePassLeft (cnt % 32 / 8) (wordPassLeft (cnt / 32) a))

/-- Whole-word pass, rightwards, `fill` entering at the top. -/
def wordPassRight (fill : Word) (ws : Nat) (a : WordBuf) : WordBuf :=
  (List.range a.length).map fun i => a.getD (i + ws) fill

/-- Whole-byte pass, rightwards, the bytes of `fill` entering at the top. -/
def bytePassRight (fill : Word) (bs : Nat) (a : WordBuf) : WordBuf :=
  let y := bytesOf a
  ofBytes ((List.range y.length).map fun j => y.getD (j + bs) (fill.extractLsb' 0 8))

/-- Single-bit pass, rightwards: each word takes its vacated top bits from the low bits of the word above it, the top
word from `fill`. -/
def bitPassRight (fill : Word) (bits : Nat) : WordBuf → WordBuf
  | [] => []
  | w :: ws =>
    BitVec.ofNat 32 (w.toNat / 2 ^ bits + (ws.headD fill).toNat % 2 ^ bits * 2 ^ (32 - bits))
      :: bitPassRight fill bits ws

/-- The right shifters for a count below the width: "the same passes in the other direction, with 0 (unsigned) or the
original sign bit's replication (signed) entering at the top" (R52). DEDUCED, log entry 15. -/
def shiftRightPasses (fill : Word) (a : WordBuf) (cnt : Nat) : WordBuf :=
  bitPassRight fill (cnt % 8) (bytePassRight fill (cnt % 32 / 8) (wordPassRight fill (cnt / 32) a))

/-! ## The bit-serial shift-and-add multiplier (R94) -/

/-- The loop of R94 with `left` bit positions still to scan, from position `i`. -/
def multiplyLoop (a : WordBuf) (v : Variant) : (left i : Nat) → (acc sh : WordBuf) → WordBuf
  | 0, _, acc, _ => acc
  | left + 1, i, acc, sh =>
    multiplyLoop a v left (i + 1)
      (if getBit a i v then (addWords acc sh).1 else acc)
      (shlWords sh 1)

/-- `MULTIPLY` by its loop: `32·so` positions, least significant bit first (R94). -/
def multiplySerial (so : Nat) (a b : WordBuf) (v : Variant) : WordBuf :=
  multiplyLoop a v (32 * so) 0 (makeZero so) (ext so b v)

/-! ## The restoring divider (R100 to R102) -/

/-- The alignment loop of R101: shift the divisor left while it is below the dividend and no bit has been lost off the
top. `fuel` bounds the shifts ("at most `32·sa`"). Answers the aligned divisor, the shift count and the lost bit. -/
def alignLoop (dividend : WordBuf) : (fuel : Nat) → (dv : WordBuf) → (shift : Int) → (lost : Bool) → WordBuf × Int × Bool
  | 0, dv, shift, lost => (dv, shift, lost)
  | fuel + 1, dv, shift, lost =>
    if lost = false ∧ ltU dv 0 dividend 0 then
      alignLoop dividend fuel (shlWords dv 1) (shift + 1) (getMsb dv)
    else (dv, shift, lost)

/-- R101 whole: the loop, then the shift back after an overshoot, restoring the lost bit. -/
def preAlign (dividend dv : WordBuf) : WordBuf × Int :=
  let r := alignLoop dividend (32 * dividend.length) dv 0 false
  if r.2.2 = true ∨ gtU r.1 0 dividend 0 then
    let back := shrUWords r.1 1
    (if r.2.2 then setMsb back else back, r.2.1 - 1)
  else (r.1, r.2.1)

/-- `Q[0] <- Q[0] OR 1`. -/
def orOne (q : WordBuf) : WordBuf :=
  match q with
  | [] => []
  | w :: ws => (w ||| 1) :: ws

/-- The quotient loop of R102, `left` rounds (`shift + 1` of them). Answers the quotient and the remainder. -/
def quotientLoop : (left : Nat) → (q d dv : WordBuf) → WordBuf × WordBuf
  | 0, q, d, _ => (q, d)
  | left + 1, q, d, dv =>
    let q' := shlWords q 1
    if gtU dv 0 d 0 then quotientLoop left q' d (shrUWords dv 1)
    else quotientLoop left (orOne q') (subWords d dv).1 (shrUWords dv 1)

/-- `DIVIDE` by its loops: the quotient of `so` words and the remainder left in the dividend scratch (R100 to R102). -/
def divideRestoring (so : Nat) (dividend divisor : WordBuf) : WordBuf × WordBuf :=
  if isZero divisor then (makeZero so, dividend)
  else
    let r := preAlign dividend (ext dividend.length divisor .U)
    quotientLoop (r.2 + 1).toNat (makeZero so) dividend r.1

end Sys2Proof.Machine
end

