-- ==== Sys2Proof/Safety.lean ====
section
/-! DEFINITION. What counts as a safe run, and who may write what: the words each command reads (10_state.md R12,
R13), the cautious step that stops before a word nothing has written (R13, 70_reset_and_hazards.md R141), and the
writers of each piece of state (R12, R15 to R18). -/

namespace Sys2Proof.Safety

open Sys2Proof.Machine

/-- All four words of a register. -/
def wholeReg (r : Reg) : List (Reg × WordIx) := [(r, 0), (r, 1), (r, 2), (r, 3)]

/-- The register words a command reads: all four words of each source it names, but one word for `RDW`, and none for
`WRW`, `LDI`, `MKZ` and `RDS` (R12; `TOI` reads the whole register, 47_move_convert_host.md R119). -/
def readsOf : Instr → List (Reg × WordIx)
  | .mov _ ra => wholeReg ra
  | .mkz _ => []
  | .wrw _ _ _ => []
  | .rdw ra k => [(ra, k)]
  | .ldiU _ _ => []
  | .ldiS _ _ => []
  | .toiU ra => wholeReg ra
  | .toiS ra => wholeReg ra
  | .rds => []
  | .add _ ra rb => wholeReg ra ++ wholeReg rb
  | .sub _ ra rb => wholeReg ra ++ wholeReg rb
  | .addiU _ ra _ => wholeReg ra
  | .addiS _ ra _ => wholeReg ra
  | .subiU _ ra _ => wholeReg ra
  | .subiS _ ra _ => wholeReg ra
  | .neg _ ra => wholeReg ra
  | .inc _ ra => wholeReg ra
  | .dec _ ra => wholeReg ra
  | .shl _ ra _ => wholeReg ra
  | .shrU _ ra _ => wholeReg ra
  | .shrS _ ra _ => wholeReg ra
  | .and _ ra rb => wholeReg ra ++ wholeReg rb
  | .or _ ra rb => wholeReg ra ++ wholeReg rb
  | .xor _ ra rb => wholeReg ra ++ wholeReg rb
  | .not _ ra => wholeReg ra
  | .ceq ra rb => wholeReg ra ++ wholeReg rb
  | .cne ra rb => wholeReg ra ++ wholeReg rb
  | .cltU ra rb => wholeReg ra ++ wholeReg rb
  | .cltS ra rb => wholeReg ra ++ wholeReg rb
  | .cgtU ra rb => wholeReg ra ++ wholeReg rb
  | .cgtS ra rb => wholeReg ra ++ wholeReg rb
  | .cleU ra rb => wholeReg ra ++ wholeReg rb
  | .cleS ra rb => wholeReg ra ++ wholeReg rb
  | .cgeU ra rb => wholeReg ra ++ wholeReg rb
  | .cgeS ra rb => wholeReg ra ++ wholeReg rb
  | .tz ra => wholeReg ra
  | .tbitU ra _ => wholeReg ra
  | .tbitS ra _ => wholeReg ra
  | .tmsb ra => wholeReg ra
  | .tlsb ra => wholeReg ra
  | .smsb _ ra => wholeReg ra
  | .mulU _ ra rb => wholeReg ra ++ wholeReg rb
  | .mulS _ ra rb => wholeReg ra ++ wholeReg rb
  | .muliU _ ra _ => wholeReg ra
  | .muliS _ ra _ => wholeReg ra
  | .divU _ ra rb => wholeReg ra ++ wholeReg rb
  | .divS _ ra rb => wholeReg ra ++ wholeReg rb
  | .diviU _ ra _ => wholeReg ra
  | .diviS _ ra _ => wholeReg ra
  | .sqrtU _ ra => wholeReg ra
  | .sqrtS _ ra => wholeReg ra

/-- The register a command writes, if it has a destination (R12). -/
def destOf : Instr → Option Reg
  | .mov rd _ => some rd
  | .mkz rd => some rd
  | .wrw rd _ _ => some rd
  | .rdw _ _ => none
  | .ldiU rd _ => some rd
  | .ldiS rd _ => some rd
  | .toiU _ => none
  | .toiS _ => none
  | .rds => none
  | .add rd _ _ => some rd
  | .sub rd _ _ => some rd
  | .addiU rd _ _ => some rd
  | .addiS rd _ _ => some rd
  | .subiU rd _ _ => some rd
  | .subiS rd _ _ => some rd
  | .neg rd _ => some rd
  | .inc rd _ => some rd
  | .dec rd _ => some rd
  | .shl rd _ _ => some rd
  | .shrU rd _ _ => some rd
  | .shrS rd _ _ => some rd
  | .and rd _ _ => some rd
  | .or rd _ _ => some rd
  | .xor rd _ _ => some rd
  | .not rd _ => some rd
  | .ceq _ _ => none
  | .cne _ _ => none
  | .cltU _ _ => none
  | .cltS _ _ => none
  | .cgtU _ _ => none
  | .cgtS _ _ => none
  | .cleU _ _ => none
  | .cleS _ _ => none
  | .cgeU _ _ => none
  | .cgeS _ _ => none
  | .tz _ => none
  | .tbitU _ _ => none
  | .tbitS _ _ => none
  | .tmsb _ => none
  | .tlsb _ => none
  | .smsb rd _ => some rd
  | .mulU rd _ _ => some rd
  | .mulS rd _ _ => some rd
  | .muliU rd _ _ => some rd
  | .muliS rd _ _ => some rd
  | .divU rd _ _ => some rd
  | .divS rd _ _ => some rd
  | .diviU rd _ _ => some rd
  | .diviS rd _ _ => some rd
  | .sqrtU rd _ => some rd
  | .sqrtS rd _ => some rd

/-- The eight commands that write STATUS.C (R15, R16). -/
def writesC : Instr → Bool
  | .mov _ _ => false
  | .mkz _ => false
  | .wrw _ _ _ => false
  | .rdw _ _ => false
  | .ldiU _ _ => false
  | .ldiS _ _ => false
  | .toiU _ => false
  | .toiS _ => false
  | .rds => false
  | .add _ _ _ => true
  | .sub _ _ _ => true
  | .addiU _ _ _ => true
  | .addiS _ _ _ => true
  | .subiU _ _ _ => true
  | .subiS _ _ _ => true
  | .neg _ _ => false
  | .inc _ _ => true
  | .dec _ _ => true
  | .shl _ _ _ => false
  | .shrU _ _ _ => false
  | .shrS _ _ _ => false
  | .and _ _ _ => false
  | .or _ _ _ => false
  | .xor _ _ _ => false
  | .not _ _ => false
  | .ceq _ _ => false
  | .cne _ _ => false
  | .cltU _ _ => false
  | .cltS _ _ => false
  | .cgtU _ _ => false
  | .cgtS _ _ => false
  | .cleU _ _ => false
  | .cleS _ _ => false
  | .cgeU _ _ => false
  | .cgeS _ _ => false
  | .tz _ => false
  | .tbitU _ _ => false
  | .tbitS _ _ => false
  | .tmsb _ => false
  | .tlsb _ => false
  | .smsb _ _ => false
  | .mulU _ _ _ => false
  | .mulS _ _ _ => false
  | .muliU _ _ _ => false
  | .muliS _ _ _ => false
  | .divU _ _ _ => false
  | .divS _ _ _ => false
  | .diviU _ _ _ => false
  | .diviS _ _ _ => false
  | .sqrtU _ _ => false
  | .sqrtS _ _ => false

/-- The fifteen commands that write STATUS.T (R15, R17). -/
def writesT : Instr → Bool
  | .mov _ _ => false
  | .mkz _ => false
  | .wrw _ _ _ => false
  | .rdw _ _ => false
  | .ldiU _ _ => false
  | .ldiS _ _ => false
  | .toiU _ => false
  | .toiS _ => false
  | .rds => false
  | .add _ _ _ => false
  | .sub _ _ _ => false
  | .addiU _ _ _ => false
  | .addiS _ _ _ => false
  | .subiU _ _ _ => false
  | .subiS _ _ _ => false
  | .neg _ _ => false
  | .inc _ _ => false
  | .dec _ _ => false
  | .shl _ _ _ => false
  | .shrU _ _ _ => false
  | .shrS _ _ _ => false
  | .and _ _ _ => false
  | .or _ _ _ => false
  | .xor _ _ _ => false
  | .not _ _ => false
  | .ceq _ _ => true
  | .cne _ _ => true
  | .cltU _ _ => true
  | .cltS _ _ => true
  | .cgtU _ _ => true
  | .cgtS _ _ => true
  | .cleU _ _ => true
  | .cleS _ _ => true
  | .cgeU _ _ => true
  | .cgeS _ _ => true
  | .tz _ => true
  | .tbitU _ _ => true
  | .tbitS _ _ => true
  | .tmsb _ => true
  | .tlsb _ => true
  | .smsb _ _ => false
  | .mulU _ _ _ => false
  | .mulS _ _ _ => false
  | .muliU _ _ _ => false
  | .muliS _ _ _ => false
  | .divU _ _ _ => false
  | .divS _ _ _ => false
  | .diviU _ _ _ => false
  | .diviS _ _ _ => false
  | .sqrtU _ _ => false
  | .sqrtS _ _ => false

/-- The four commands that write RDATA (R15, R18). -/
def writesRdata : Instr → Bool
  | .mov _ _ => false
  | .mkz _ => false
  | .wrw _ _ _ => false
  | .rdw _ _ => true
  | .ldiU _ _ => false
  | .ldiS _ _ => false
  | .toiU _ => true
  | .toiS _ => true
  | .rds => true
  | .add _ _ _ => false
  | .sub _ _ _ => false
  | .addiU _ _ _ => false
  | .addiS _ _ _ => false
  | .subiU _ _ _ => false
  | .subiS _ _ _ => false
  | .neg _ _ => false
  | .inc _ _ => false
  | .dec _ _ => false
  | .shl _ _ _ => false
  | .shrU _ _ _ => false
  | .shrS _ _ _ => false
  | .and _ _ _ => false
  | .or _ _ _ => false
  | .xor _ _ _ => false
  | .not _ _ => false
  | .ceq _ _ => false
  | .cne _ _ => false
  | .cltU _ _ => false
  | .cltS _ _ => false
  | .cgtU _ _ => false
  | .cgtS _ _ => false
  | .cleU _ _ => false
  | .cleS _ _ => false
  | .cgeU _ _ => false
  | .cgeS _ _ => false
  | .tz _ => false
  | .tbitU _ _ => false
  | .tbitS _ _ => false
  | .tmsb _ => false
  | .tlsb _ => false
  | .smsb _ _ => false
  | .mulU _ _ _ => false
  | .mulS _ _ _ => false
  | .muliU _ _ _ => false
  | .muliS _ _ _ => false
  | .divU _ _ _ => false
  | .divS _ _ _ => false
  | .diviU _ _ _ => false
  | .diviS _ _ _ => false
  | .sqrtU _ _ => false
  | .sqrtS _ _ => false

/-- The first word of a list that no command has written since reset. -/
def firstUnwritten (s : State) : List (Reg × WordIx) → Option (Reg × WordIx)
  | [] => none
  | p :: ps => if s.isWritten p.1 p.2 then firstUnwritten s ps else some p

/-- The cautious step: `step`, but it faults before a command that reads a word nothing has written (R13). -/
def checkedStep (s : State) : Result :=
  match s.inputs with
  | .command c :: _ =>
    match decode c with
    | .command i =>
      match firstUnwritten s (readsOf i) with
      | some (r, k) => .fault (.unwrittenRead r k)
      | none => step s
    | .reserved _ => step s
  | _ => step s

/-- The commands of a list, one after the other, stopping at the first that does not answer a next state (20_memory.md
R27). -/
def runCommands : List Instr → State → Result
  | [], s => .next s
  | i :: is, s =>
    match exec i s with
    | .next t => runCommands is t
    | .fault f => .fault f
    | .refused r => .refused r

/-- What retiring a command does to the state `t` its meaning left, and what the ports then show: nothing of `t` changes
but `rsp_valid`, which is high for the cycle, and the ports show the RDATA, C and T of `t` (30_encoding.md R42). -/
def RetiresTo (t u : State) : Prop :=
  u = { t with rspValid := true } ∧ u.ports.rspValid = true ∧ u.ports.rdata = t.rdata ∧
  u.ports.status0 = t.status.c ∧ u.ports.status1 = t.status.t

/-- The machine of the cautious step. -/
def checkedCore : Host.Core :=
  { State := State, Fault := Fault, Refusal := Refusal, step := checkedStep, reset := State.reset }

/-- Two states that can differ only in the content of register words that nothing has written since reset. -/
def AgreeOnWritten (s t : State) : Prop :=
  (∀ r k, s.isWritten r k = true → s.word r k = t.word r k) ∧
  s.written = t.written ∧ s.status = t.status ∧ s.rdata = t.rdata ∧ s.rspValid = t.rspValid ∧
  s.inputs = t.inputs ∧ s.resets = t.resets

/-- The host will not assert `rst` again. -/
def NoRstPending (s : State) : Prop := ∀ inFlight, HostInput.rst inFlight ∉ s.inputs

/-- Every word of the list has been written since the last reset, and no further reset is to come: what a program has
initialised (70_reset_and_hazards.md R141). -/
def Initialised (need : List (Reg × WordIx)) (s : State) : Prop :=
  (∀ p ∈ need, s.isWritten p.1 p.2 = true) ∧ NoRstPending s

/-- The clauses of 30_encoding.md R37 on a command that has an opcode row: what a row's format lets be non-zero. -/
structure FormatUse where
  hasVariants : Bool
  usesRd : Bool
  usesRa : Bool
  usesRb : Bool
  usesK : Bool
deriving DecidableEq, Repr

/-- The opcodes of 30_encoding.md R36 with the `s` column and the fields of their format (R34). -/
def opcodeUse : List (Nat × FormatUse) :=
  [(0x01, ⟨false, true, true, false, false⟩),
   (0x02, ⟨false, true, false, false, false⟩),
   (0x03, ⟨false, true, false, false, true⟩),
   (0x04, ⟨false, false, true, false, true⟩),
   (0x05, ⟨true, true, false, false, false⟩),
   (0x06, ⟨true, false, true, false, false⟩),
   (0x07, ⟨false, false, false, false, false⟩),
   (0x10, ⟨false, true, true, true, false⟩),
   (0x11, ⟨false, true, true, true, false⟩),
   (0x12, ⟨true, true, true, false, false⟩),
   (0x13, ⟨true, true, true, false, false⟩),
   (0x14, ⟨false, true, true, false, false⟩),
   (0x15, ⟨false, true, true, false, false⟩),
   (0x16, ⟨false, true, true, false, false⟩),
   (0x20, ⟨false, true, true, false, false⟩),
   (0x21, ⟨true, true, true, false, false⟩),
   (0x28, ⟨false, true, true, true, false⟩),
   (0x29, ⟨false, true, true, true, false⟩)] ++
  [(0x2A, ⟨false, true, true, true, false⟩),
   (0x2B, ⟨false, true, true, false, false⟩),
   (0x30, ⟨false, false, true, true, false⟩),
   (0x31, ⟨false, false, true, true, false⟩),
   (0x32, ⟨true, false, true, true, false⟩),
   (0x33, ⟨true, false, true, true, false⟩),
   (0x34, ⟨true, false, true, true, false⟩),
   (0x35, ⟨true, false, true, true, false⟩),
   (0x38, ⟨false, false, true, false, false⟩),
   (0x39, ⟨true, false, true, false, false⟩),
   (0x3A, ⟨false, false, true, false, false⟩),
   (0x3B, ⟨false, false, true, false, false⟩),
   (0x3C, ⟨false, true, true, false, false⟩),
   (0x40, ⟨true, true, true, true, false⟩),
   (0x41, ⟨true, true, true, false, false⟩),
   (0x48, ⟨true, true, true, true, false⟩),
   (0x49, ⟨true, true, true, false, false⟩),
   (0x50, ⟨true, true, true, false, false⟩)]

/-- A reserved control word, clause by clause as 30_encoding.md R37 states it. -/
def ReservedByR37 (c : Command) : Prop :=
  (∀ p ∈ opcodeUse, c.cw.toNat / 2 ^ 24 ≠ p.1) ∨
  (∃ p ∈ opcodeUse, c.cw.toNat / 2 ^ 24 = p.1 ∧
    ((c.cw.toNat / 2 ^ 23 % 2 = 1 ∧ p.2.hasVariants = false) ∨
     c.cw.toNat / 2 ^ 20 % 2 ^ 3 ≠ 0 ∨ c.cw.toNat / 2 ^ 2 % 2 ^ 6 ≠ 0 ∨
     (c.cw.toNat / 2 ^ 16 % 2 ^ 4 ≠ 0 ∧ p.2.usesRd = false) ∨
     (c.cw.toNat / 2 ^ 12 % 2 ^ 4 ≠ 0 ∧ p.2.usesRa = false) ∨
     (c.cw.toNat / 2 ^ 8 % 2 ^ 4 ≠ 0 ∧ p.2.usesRb = false) ∨
     (c.cw.toNat % 2 ^ 2 ≠ 0 ∧ p.2.usesK = false)))

end Sys2Proof.Safety
end

