-- ==== Sys2Proof/Certificates/Slice0/Obligations.lean ====
section
/-! DEFINITION. The statements for the provers. Each docstring says which rule of spec/ it formalises. A next state is
given by the model's own state updates: `writeX` (one register, all four words written), `writeWord`, `setC`, `setT`,
`setRdata`; what an equation does not update is unchanged. There is no memory, so no frame speaks of it. -/

open Sys2Proof Sys2Proof.Machine Sys2Proof.Safety

/-! ## Encoding -/

/-- Decoding the encoding of a command gives the command, with every operand at every value (30_encoding.md R32 to
R36). -/
def Obligations.DecodeInvertsEncode : Prop := ∀ i : Instr, decode (encode i) = .command i

/-- R34: a control word is the command of a row of the opcode table exactly when `CW AND mask = match`; and every
command the decoder answers has a row. -/
def Obligations.CommandIsItsTableRow : Prop :=
  (∀ (c : Command), ∀ row ∈ opcodeTable,
    (c.cw &&& row.mask = row.bits ↔ ∃ i, decode c = .command i ∧ i.mnemonic = row.mnemonic)) ∧
  (∀ (c : Command) (i : Instr), decode c = .command i → ∃ row ∈ opcodeTable, row.mnemonic = i.mnemonic)

/-- Encoding what was decoded gives the same control word back, and the same IW in a command that has an immediate
(R32, R33, R37). -/
def Obligations.EncodeInvertsDecode : Prop :=
  ∀ (c : Command) (i : Instr), decode c = .command i →
    (encode i).cw = c.cw ∧ (i.usesImmediate = true → encode i = c)

/-- "A command that has no immediate operand ignores IW entirely" (R32, R35). -/
def Obligations.UnusedImmediateIsIgnored : Prop :=
  ∀ (c : Command) (i : Instr) (iw : Word), decode c = .command i → i.usesImmediate = false →
    decode ⟨c.cw, iw⟩ = .command i

/-- R37, clause by clause: the machine refuses a presented command exactly when its control word is reserved. (Which
clause the refusal names is log entry 6 and is not stated.) -/
def Obligations.ReservedWordsAreRefused : Prop :=
  ∀ (s : State) (c : Command) (rest : List HostInput), s.inputs = .command c :: rest →
    (ReservedByR37 c ↔ ∃ why, step s = .refused (.reservedCommand why))

/-- Words written out in the tables of 95_test_vectors.md part 2 and of 96_test_vectors_mul_div_sqrt.md, and the `WRW` of
program 4 (95_test_vectors.md part 3), decode to the commands they stand for; the five reserved words that end part 3 are
answered "reserved" (R37). The clause named beside each is the model's report (log entry 6): it is the one clause of R37
that holds of that word. -/
def Obligations.SpecWordsDecode : Prop :=
  decode ⟨0x01031000, 0⟩ = .command (.mov 3 1) ∧
  decode ⟨0x03010002, 0x00000002⟩ = .command (.wrw 1 2 0x00000002) ∧
  decode ⟨0x10031200, 0⟩ = .command (.add 3 1 2) ∧
  decode ⟨0x12831000, 0xFFFFFFFB⟩ = .command (.addiS 3 1 0xFFFFFFFB) ∧
  decode ⟨0x21831000, 0x0000002D⟩ = .command (.shrS 3 1 0x2D) ∧
  decode ⟨0x35801200, 0⟩ = .command (.cgeS 1 2) ∧
  decode ⟨0x39801000, 0x80000000⟩ = .command (.tbitS 1 0x80000000) ∧
  decode ⟨0x40831200, 0⟩ = .command (.mulS 3 1 2) ∧
  decode ⟨0x49831000, 0xFFFFFFFD⟩ = .command (.diviS 3 1 0xFFFFFFFD) ∧
  decode ⟨0x50031000, 0⟩ = .command (.sqrtU 3 1) ∧
  decode ⟨0x00000000, 0⟩ = .reserved .unassignedOpcode ∧
  decode ⟨0x10831200, 0⟩ = .reserved .variantBit ∧
  decode ⟨0x10031201, 0⟩ = .reserved .wordIndex ∧
  decode ⟨0x02030100, 0⟩ = .reserved .unusedRegister ∧
  decode ⟨0x60000000, 0⟩ = .reserved .unassignedOpcode

/-! ## Steps, resets, frames -/

/-- A step runs the decoded command: the host's input is taken, `exec` runs, the command retires; and so does the step
after `withFetchWord` (10_state.md R14, 20_memory.md R27, 30_encoding.md R42). Retiring changes nothing of what `exec`
left and raises `rsp_valid`; the ports `rdata`, `status[0]` and `status[1]` then show the RDATA, C and T the command left,
as they show RDATA, C and T in every state (R42, 10_state.md R15). The host's list of inputs is log entry 3, one step for
each command log entry 4. -/
def Obligations.StepRunsPresentedCommand : Prop :=
  (∀ (s : State) (c : Command) (rest : List HostInput) (i : Instr), s.inputs = .command c :: rest →
    decode c = .command i → ∃ t u, exec i (s.takeInput rest) = .next t ∧ step s = .next u ∧ RetiresTo t u) ∧
  (∀ (s : State) (nbits w : Nat) (i : Instr), decodeTableWord nbits w = some i →
    ∃ t u, exec i s = .next t ∧ step (s.withFetchWord nbits w) = .next u ∧ RetiresTo t u) ∧
  (∀ s : State, s.ports.rdata = s.rdata ∧ s.ports.status0 = s.status.c ∧ s.ports.status1 = s.status.t)

/-- Every step takes exactly the next of the host's inputs: commands take effect in the order the host gives them
(20_memory.md R27). -/
def Obligations.InputsAreTakenInOrder : Prop :=
  ∀ s t : State, step s = .next t → t.inputs = s.inputs.tail

/-- With nothing presented the unit is idle, `cmd_ready` high and all state held (60_exceptions.md R137). That such a
step is a step of the machine, and that `rsp_valid` is then low, is the model's reading (log entries 4 and 5). -/
def Obligations.IdleUnitHoldsItsState : Prop :=
  ∀ s : State, (s.inputs = [] ∨ ∃ rest, s.inputs = .idle :: rest) →
    ∃ t, step s = .next t ∧ t.regs = s.regs ∧ t.written = s.written ∧ t.status = s.status ∧ t.rdata = s.rdata ∧
      t.inputs = s.inputs.tail ∧ t.ports.cmdReady = true ∧ t.ports.rspValid = false

/-- `rst` puts the unit in the reset state, whether or not a command was in flight: STATUS and RDATA 0, `rsp_valid`
low, every register word unwritten; of the words' values nothing is said (70_reset_and_hazards.md R140, R145). That the
host asserts `rst` between commands, naming the command in flight, is the model's choice (log entries 3, 4
and 7). -/
def Obligations.RstEntersTheResetState : Prop :=
  ∀ (s : State) (inFlight : Option Command) (rest : List HostInput), s.inputs = .rst inFlight :: rest →
    (∀ c, inFlight = some c → ∃ i, decode c = .command i) →
    ∃ t, step s = .next t ∧ t.status.c = false ∧ t.status.t = false ∧ t.rdata = 0 ∧
      t.ports.cmdReady = true ∧ t.ports.rspValid = false ∧ (∀ r k, t.isWritten r k = false) ∧ t.inputs = rest

/-- The state after reset (10_state.md R22): STATUS and RDATA 0, every register word unwritten. -/
def Obligations.ResetStateIsAsStated : Prop :=
  State.reset.status.c = false ∧ State.reset.status.t = false ∧ State.reset.rdata = 0x00000000 ∧
  ∀ (r : Reg) (k : WordIx), State.reset.isWritten r k = false

/-- "Every command … completes and retires for every value of its operands" (60_exceptions.md R126). -/
def Obligations.EveryCommandCompletes : Prop := ∀ (i : Instr) (s : State), ∃ t, exec i s = .next t

/-- The frame of the registers: a command changes no register but its destination, and nothing of the host's inputs,
`rsp_valid` or the model's counter (10_state.md R12). -/
def Obligations.OnlyTheDestinationChanges : Prop :=
  ∀ (i : Instr) (s t : State), exec i s = .next t →
    (∀ r, destOf i ≠ some r → t.x r = s.x r ∧ t.marks r = s.marks r) ∧
    t.inputs = s.inputs ∧ t.rspValid = s.rspValid ∧ t.resets = s.resets

/-- The frame of STATUS and RDATA: C is written by its eight commands only, T by its fifteen, RDATA by its four
(10_state.md R15 to R18). -/
def Obligations.OnlyTheListedCommandsWriteFlags : Prop :=
  ∀ (i : Instr) (s t : State), exec i s = .next t →
    (writesC i = false → t.status.c = s.status.c) ∧
    (writesT i = false → t.status.t = s.status.t) ∧
    (writesRdata i = false → t.rdata = s.rdata)

/-! ## Initialised programs -/

/-- The cautious step faults before a command that reads a word nothing has written, on such a word of those it reads, and
only there: a fault on an unwritten word is before a presented command that reads it. Where it goes on it is the step; it
is the step when every word the command reads has been written, and when no command is presented: at the end of the inputs,
in an idle cycle, on `rst` and on a reserved command (10_state.md R13, 70_reset_and_hazards.md R141,
93_implementation_defined.md U2). That this fault is `checkedStep`'s and not `step`'s is log entries 1 and 8. -/
def Obligations.CheckedStepIsStepOnWrittenWords : Prop :=
  (∀ s t : State, checkedStep s = .next t → step s = .next t) ∧
  (∀ (s : State) (r : Reg) (k : WordIx), checkedStep s = .fault (.unwrittenRead r k) →
    s.isWritten r k = false ∧
    ∃ c rest i, s.inputs = .command c :: rest ∧ decode c = .command i ∧ (r, k) ∈ readsOf i) ∧
  (∀ (s : State) (c : Command) (rest : List HostInput) (i : Instr), s.inputs = .command c :: rest →
    decode c = .command i → (∀ p ∈ readsOf i, s.isWritten p.1 p.2 = true) → checkedStep s = step s) ∧
  (∀ (s : State) (c : Command) (rest : List HostInput) (i : Instr), s.inputs = .command c :: rest →
    decode c = .command i → (∃ p ∈ readsOf i, s.isWritten p.1 p.2 = false) →
    ∃ r k, (r, k) ∈ readsOf i ∧ s.isWritten r k = false ∧ checkedStep s = .fault (.unwrittenRead r k)) ∧
  (∀ s : State, (∀ c rest i, s.inputs = .command c :: rest → decode c ≠ .command i) → checkedStep s = step s)

/-- A program that writes every word before reading it cannot observe what the registers held after reset: from two
states that differ only in words nothing has written, a run of the cautious machine over any number of steps is a run
of the machine from both, and ends in two states that again differ only in such words (10_state.md R13,
70_reset_and_hazards.md R141). So no such program depends on the reset values that log entry 1 chose. -/
def Obligations.InitialisedRunsCannotSeeResetContents : Prop :=
  ∀ (n : Nat) (s s' t : State), AgreeOnWritten s s' → checkedCore.run n s = .next t →
    Sys2Proof.core.run n s = .next t ∧
    ∃ t', checkedCore.run n s' = .next t' ∧ Sys2Proof.core.run n s' = .next t' ∧ AgreeOnWritten t t'

/-- An invariant that every step keeps: while no reset is to come, a word once written stays written (10_state.md R13,
70_reset_and_hazards.md R141). -/
def Obligations.WrittenWordsStayWritten : Prop :=
  ∀ (need : List (Reg × WordIx)) (s t : State), Initialised need s → step s = .next t → Initialised need t

/-- At reset the invariant holds for the empty list of words and for no other: nothing has been written (10_state.md
R22). -/
def Obligations.NothingIsWrittenAtReset : Prop :=
  ∀ need : List (Reg × WordIx), Initialised need State.reset ↔ need = []

/-- Four `WRW` covering `k` = 0, 1, 2, 3 in any order load a whole register and make it fully written (30_encoding.md
R41 `LDX`, 47_move_convert_host.md R115, 70_reset_and_hazards.md R141). -/
def Obligations.FourWordWritesLoadARegister : Prop :=
  ∀ (s : State) (rd : Reg) (w3 w2 w1 w0 : Word),
    (∀ cmds : List Instr, cmds.Perm [.wrw rd 0 w0, .wrw rd 1 w1, .wrw rd 2 w2, .wrw rd 3 w3] →
      runCommands cmds s = .next (s.writeX rd ⟨w0, w1, w2, w3⟩)) ∧
    expandPseudo (.ldx rd w3 w2 w1 w0) = some [.wrw rd 0 w0, .wrw rd 1 w1, .wrw rd 2 w2, .wrw rd 3 w3]

/-! ## The word-array primitives -/

/-- The closed forms of the ripple-carry adder and subtractor (40_word_array_primitives.md R44, R45). -/
def Obligations.RippleCarryIsExact : Prop :=
  ∀ a b : WordBuf, a.length = b.length →
    (addWords a b).1.length = a.length ∧
    uval (addWords a b).1 = (uval a + uval b) % 2 ^ (32 * a.length) ∧
    (addWords a b).2.toNat = (uval a + uval b) / 2 ^ (32 * a.length) ∧
    (subWords a b).1.length = a.length ∧
    (uval (subWords a b).1 : Int) = ((uval a : Int) - uval b) % 2 ^ (32 * a.length) ∧
    ((subWords a b).2 = true ↔ uval a < uval b)

/-- The closed form of the negator, and that negating twice gives the operand back (R48, R59). -/
def Obligations.NegateIsExactAndInvolutive : Prop :=
  ∀ a : WordBuf,
    uval (negWords a) = (2 ^ (32 * a.length) - uval a) % 2 ^ (32 * a.length) ∧ negWords (negWords a) = a

/-- The word, byte and bit passes of the three shifters compose to the single shift (R52, with R49 to R51). -/
def Obligations.ShifterPassesComposeToTheShift : Prop :=
  ∀ (a : WordBuf) (cnt : Nat), cnt < 32 * a.length →
    shiftLeftPasses a cnt = shlWords a cnt ∧
    shiftRightPasses 0 a cnt = shrUWords a cnt ∧
    shiftRightPasses (signFill a) a cnt = shrSWords a cnt

/-- The comparators order the values the buffers stand for, whatever their word counts and fractional offsets: both
sides are scaled by `2^(32(fa+fb))` (R53, R54). -/
def Obligations.ComparatorsOrderTheValues : Prop :=
  ∀ (a b : WordBuf) (fa fb : Nat),
    (gtU a fa b fb = true ↔ uval b * 2 ^ (32 * fa) < uval a * 2 ^ (32 * fb)) ∧
    (ltU a fa b fb = true ↔ uval a * 2 ^ (32 * fb) < uval b * 2 ^ (32 * fa)) ∧
    (0 < a.length → 0 < b.length →
      ((gtS a fa b fb = true ↔ sval b * 2 ^ (32 * fa) < sval a * 2 ^ (32 * fb)) ∧
       (ltS a fa b fb = true ↔ sval a * 2 ^ (32 * fb) < sval b * 2 ^ (32 * fa))))

/-- An aligned operand keeps its value, scaled by the shift of its fractional point; so the mismatched add and subtract
add and subtract that value (R46, R47). -/
def Obligations.AlignmentKeepsTheValue : Prop :=
  ∀ (b : WordBuf) (fb sa fa : Nat), fb ≤ fa → b.length + (fa - fb) ≤ sa →
    uval (align b fb sa fa 0) = uval b * 2 ^ (32 * (fa - fb)) ∧
    sval (align b fb sa fa (signFill b)) = sval b * 2 ^ (32 * (fa - fb)) ∧
    (∀ a : WordBuf, a.length = sa →
      uval (addMismatched a fa b fb 0).1 = (uval a + uval b * 2 ^ (32 * (fa - fb))) % 2 ^ (32 * sa) ∧
      (uval (subMismatched a fa b fb 0).1 : Int) =
        ((uval a : Int) - uval b * 2 ^ (32 * (fa - fb))) % 2 ^ (32 * sa))

/-- Extension keeps the value under its variant (R58). -/
def Obligations.ExtensionKeepsTheValue : Prop :=
  ∀ (b : WordBuf) (m : Nat), b.length ≤ m →
    (ext m b .U).length = m ∧ (ext m b .S).length = m ∧
    uval (ext m b .U) = uval b ∧ sval (ext m b .S) = sval b

/-- The bit-serial shift-and-add loop computes the product modulo `2^(32·so)` (44_multiply.md R94, R95). -/
def Obligations.ShiftAndAddIsTheProduct : Prop :=
  ∀ (so : Nat) (a b : WordBuf) (v : Variant), b.length ≤ so →
    multiplySerial so a b v = bufInt so (reading v a * reading v b)

/-- The restoring divider's loops compute the truncated quotient and the remainder (45_divide.md R100 to R103; the width
of the divisor's scratch copy is the spec's own choice, D15, log entry 12). -/
def Obligations.RestoringDividerIsTheQuotient : Prop :=
  ∀ (so : Nat) (dividend divisor : WordBuf), divisor.length ≤ dividend.length →
    divideRestoring so dividend divisor =
      if uval divisor = 0 then (buf so 0, dividend)
      else (buf so (uval dividend / uval divisor), buf dividend.length (uval dividend % uval divisor))

/-! ## Move, load, read-back, conversion -/

/-- `MOV` copies a register, `MKZ` clears one (47_move_convert_host.md R113, R114). -/
def Obligations.MoveAndClear : Prop :=
  ∀ (rd ra : Reg) (s : State),
    exec (.mov rd ra) s = .next (s.writeX rd (s.x ra)) ∧
    exec (.mkz rd) s = .next (s.writeX rd ⟨0, 0, 0, 0⟩)

/-- `WRW` writes and marks one word and leaves every other word of every register, and its mark, alone; `RDW` returns
one word (R115, R116). -/
def Obligations.HostWordAccess : Prop :=
  ∀ (r : Reg) (k : WordIx) (imm : Word) (s : State),
    (∃ t, exec (.wrw r k imm) s = .next t ∧ t.word r k = imm ∧ t.isWritten r k = true ∧
      (∀ r' k', (r', k') ≠ (r, k) → t.word r' k' = s.word r' k' ∧ t.isWritten r' k' = s.isWritten r' k') ∧
      t.status = s.status ∧ t.rdata = s.rdata ∧ t.inputs = s.inputs ∧ t.rspValid = s.rspValid ∧
      t.resets = s.resets) ∧
    exec (.rdw r k) s = .next (s.setRdata (s.word r k))

/-- `LDI.U` and `LDI.S` load the plain integer exactly, lined up with word 1 (R117, R118). That the S form sign-extends
the integer is the spec's own choice (D12, log entry 12). -/
def Obligations.LoadPlainInteger : Prop :=
  ∀ (rd : Reg) (imm : Word) (s : State),
    exec (.ldiU rd imm) s = .next (s.writeX rd (quadOfNat (imm.toNat * 2 ^ 32))) ∧
    exec (.ldiS rd imm) s = .next (s.writeX rd (quadOfInt (imm.toInt * 2 ^ 32)))

/-- `TOI.U` returns the low 32 bits of the integer part; `TOI.S` the low 32 bits of the value truncated toward zero
(R119, R120). Out of range, and for a negative value with a fraction, this is the spec's own choice (D19, U5, log entry
11). -/
def Obligations.ConvertToPlainInteger : Prop :=
  ∀ (ra : Reg) (s : State),
    exec (.toiU ra) s = .next (s.setRdata (BitVec.ofNat 32 (raw (s.x ra) / 2 ^ 32))) ∧
    exec (.toiS ra) s = .next (s.setRdata (BitVec.ofInt 32 ((rawSigned (s.x ra)).tdiv (2 ^ 32))))

/-- `RDS` returns STATUS: bit 0 is C, bit 1 is T, every other bit 0 (R121). -/
def Obligations.ReadStatus : Prop :=
  ∀ s : State, ∃ w : Word, exec .rds s = .next (s.setRdata w) ∧
    w.getLsbD 0 = s.status.c ∧ w.getLsbD 1 = s.status.t ∧ ∀ j, 2 ≤ j → w.getLsbD j = false

/-! ## Add, subtract, negate, increment, decrement -/

/-- `ADD` and `SUB` (41_add_sub.md R60, R61): modulo `2^128`, C the carry-out or borrow-out. -/
def Obligations.AddAndSubtract : Prop :=
  ∀ (rd ra rb : Reg) (s : State),
    exec (.add rd ra rb) s = .next ((s.writeX rd (quadOfNat (raw (s.x ra) + raw (s.x rb)))).setC
      (decide (2 ^ 128 ≤ raw (s.x ra) + raw (s.x rb)))) ∧
    exec (.sub rd ra rb) s = .next ((s.writeX rd (quadOfInt (raw (s.x ra) - raw (s.x rb)))).setC
      (decide (raw (s.x ra) < raw (s.x rb))))

/-- `ADDI.U` and `ADDI.S` (R62, R63): the integer is added at word 1; C is the carry-out of the pattern addition. That
the S form sign-extends the integer is the spec's own choice (D12, log entry 12). -/
def Obligations.AddPlainInteger : Prop :=
  ∀ (rd ra : Reg) (imm : Word) (s : State),
    exec (.addiU rd ra imm) s = .next ((s.writeX rd (quadOfNat (raw (s.x ra) + imm.toNat * 2 ^ 32))).setC
      (decide (2 ^ 128 ≤ raw (s.x ra) + imm.toNat * 2 ^ 32))) ∧
    exec (.addiS rd ra imm) s = .next ((s.writeX rd (quadOfInt (raw (s.x ra) + imm.toInt * 2 ^ 32))).setC
      (decide ((2 : Int) ^ 128 ≤ raw (s.x ra) + imm.toInt * 2 ^ 32 % 2 ^ 128)))

/-- `SUBI.U` and `SUBI.S` (R64, R65): the integer is subtracted at word 1; C is the borrow-out of the pattern
subtraction. That the S form sign-extends the integer is the spec's own choice (D12, log entry 12). -/
def Obligations.SubtractPlainInteger : Prop :=
  ∀ (rd ra : Reg) (imm : Word) (s : State),
    exec (.subiU rd ra imm) s = .next ((s.writeX rd (quadOfInt (raw (s.x ra) - imm.toNat * 2 ^ 32))).setC
      (decide (raw (s.x ra) < imm.toNat * 2 ^ 32))) ∧
    exec (.subiS rd ra imm) s = .next ((s.writeX rd (quadOfInt (raw (s.x ra) - imm.toInt * 2 ^ 32))).setC
      (decide ((raw (s.x ra) : Int) < imm.toInt * 2 ^ 32 % 2 ^ 128)))

/-- `NEG` (R66): two's-complement negation, no flag; `a + (−a)` is 0 and `NEG` twice gives the operand back. -/
def Obligations.Negate : Prop :=
  ∀ (rd ra : Reg) (s : State),
    exec (.neg rd ra) s = .next (s.writeX rd (quadOfInt (-(raw (s.x ra) : Int)))) ∧
    runCommands [.neg rd ra, .neg rd rd] s = .next (s.writeX rd (s.x ra)) ∧
    (rd ≠ ra → ∃ t, runCommands [.neg rd ra, .add rd rd ra] s = .next t ∧ t.x rd = ⟨0, 0, 0, 0⟩)

/-- `INC` and `DEC` add and subtract 1.0, raw `2^32` (R67, R68). That the step is 1.0 is the spec's own choice (D13, log
entry 12). -/
def Obligations.IncrementAndDecrement : Prop :=
  ∀ (rd ra : Reg) (s : State),
    exec (.inc rd ra) s = .next ((s.writeX rd (quadOfNat (raw (s.x ra) + 2 ^ 32))).setC
      (decide (2 ^ 128 ≤ raw (s.x ra) + 2 ^ 32))) ∧
    exec (.dec rd ra) s = .next ((s.writeX rd (quadOfInt (raw (s.x ra) - 2 ^ 32))).setC
      (decide (raw (s.x ra) < 2 ^ 32)))

/-! ## Shift and bitwise -/

/-- `SHL`, `SHR.U` and `SHR.S` for every count, 128 and more included (42_shift_bitwise.md R70, R71, R72). -/
def Obligations.Shifts : Prop :=
  ∀ (rd ra : Reg) (imm : Word) (s : State),
    exec (.shl rd ra imm) s = .next (s.writeX rd (quadOfNat (raw (s.x ra) * 2 ^ imm.toNat))) ∧
    exec (.shrU rd ra imm) s = .next (s.writeX rd (quadOfNat (raw (s.x ra) / 2 ^ imm.toNat))) ∧
    exec (.shrS rd ra imm) s = .next (s.writeX rd (quadOfInt (rawSigned (s.x ra) / 2 ^ imm.toNat)))

/-- `AND`, `OR`, `XOR` and `NOT` act on each of the 128 bits alone (R73 to R76). -/
def Obligations.BitwiseCommands : Prop :=
  ∀ (rd ra rb : Reg) (s : State), ∃ qAnd qOr qXor qNot : Quad,
    exec (.and rd ra rb) s = .next (s.writeX rd qAnd) ∧
    exec (.or rd ra rb) s = .next (s.writeX rd qOr) ∧
    exec (.xor rd ra rb) s = .next (s.writeX rd qXor) ∧
    exec (.not rd ra) s = .next (s.writeX rd qNot) ∧
    ∀ j, j < 128 →
      (raw qAnd).testBit j = ((raw (s.x ra)).testBit j && (raw (s.x rb)).testBit j) ∧
      (raw qOr).testBit j = ((raw (s.x ra)).testBit j || (raw (s.x rb)).testBit j) ∧
      (raw qXor).testBit j = ((raw (s.x ra)).testBit j ^^ (raw (s.x rb)).testBit j) ∧
      (raw qNot).testBit j = !(raw (s.x ra)).testBit j

/-- Shift round trips (property P3 of 95_test_vectors.md): `SHL` then `SHR.U` by the same count gives the operand back
when no bit is lost; `SHR.S` then `SHL` by at most 127 clears only the low bits. -/
def Obligations.ShiftRoundTrips : Prop :=
  ∀ (rd ra : Reg) (imm : Word) (s : State),
    (raw (s.x ra) * 2 ^ imm.toNat < 2 ^ 128 →
      runCommands [.shl rd ra imm, .shrU rd rd imm] s = .next (s.writeX rd (s.x ra))) ∧
    (imm.toNat ≤ 127 →
      runCommands [.shrS rd ra imm, .shl rd rd imm] s =
        .next (s.writeX rd (quadOfNat (raw (s.x ra) - raw (s.x ra) % 2 ^ imm.toNat))))

/-! ## Comparison, test, bit access -/

/-- `CEQ` and `CNE` compare the bit patterns (43_compare_test.md R77, R78). -/
def Obligations.EqualityCompares : Prop :=
  ∀ (ra rb : Reg) (s : State),
    exec (.ceq ra rb) s = .next (s.setT (decide (s.x ra = s.x rb))) ∧
    exec (.cne ra rb) s = .next (s.setT (decide (s.x ra ≠ s.x rb)))

/-- The Unsigned comparisons (R79, R81, R83, R85). -/
def Obligations.UnsignedCompares : Prop :=
  ∀ (ra rb : Reg) (s : State),
    exec (.cltU ra rb) s = .next (s.setT (decide (raw (s.x ra) < raw (s.x rb)))) ∧
    exec (.cgtU ra rb) s = .next (s.setT (decide (raw (s.x ra) > raw (s.x rb)))) ∧
    exec (.cleU ra rb) s = .next (s.setT (decide (raw (s.x ra) ≤ raw (s.x rb)))) ∧
    exec (.cgeU ra rb) s = .next (s.setT (decide (raw (s.x ra) ≥ raw (s.x rb))))

/-- The Signed comparisons (R80, R82, R84, R86). -/
def Obligations.SignedCompares : Prop :=
  ∀ (ra rb : Reg) (s : State),
    exec (.cltS ra rb) s = .next (s.setT (decide (rawSigned (s.x ra) < rawSigned (s.x rb)))) ∧
    exec (.cgtS ra rb) s = .next (s.setT (decide (rawSigned (s.x ra) > rawSigned (s.x rb)))) ∧
    exec (.cleS ra rb) s = .next (s.setT (decide (rawSigned (s.x ra) ≤ rawSigned (s.x rb)))) ∧
    exec (.cgeS ra rb) s = .next (s.setT (decide (rawSigned (s.x ra) ≥ rawSigned (s.x rb))))

/-- The law of the comparisons (R93): exactly one of less, equal, greater; the other three follow; the U and S forms
agree for equal sign bits and are opposite for different ones. -/
def Obligations.ComparisonTrichotomy : Prop :=
  ∀ (ra rb : Reg) (s : State), ∃ eq ltu gtu lts gts : Bool,
    exec (.ceq ra rb) s = .next (s.setT eq) ∧ exec (.cne ra rb) s = .next (s.setT (!eq)) ∧
    exec (.cltU ra rb) s = .next (s.setT ltu) ∧ exec (.cgtU ra rb) s = .next (s.setT gtu) ∧
    exec (.cltS ra rb) s = .next (s.setT lts) ∧ exec (.cgtS ra rb) s = .next (s.setT gts) ∧
    exec (.cleU ra rb) s = .next (s.setT (ltu || eq)) ∧ exec (.cgeU ra rb) s = .next (s.setT (gtu || eq)) ∧
    exec (.cleS ra rb) s = .next (s.setT (lts || eq)) ∧ exec (.cgeS ra rb) s = .next (s.setT (gts || eq)) ∧
    ltu.toNat + eq.toNat + gtu.toNat = 1 ∧ lts.toNat + eq.toNat + gts.toNat = 1 ∧
    ((s.x ra).w3.getLsbD 31 = (s.x rb).w3.getLsbD 31 → lts = ltu ∧ gts = gtu) ∧
    ((s.x ra).w3.getLsbD 31 ≠ (s.x rb).w3.getLsbD 31 → lts = !ltu ∧ gts = !gtu)

/-- `TZ`, `TMSB` and `TLSB` (R87, R90, R91). -/
def Obligations.ZeroAndEndBitTests : Prop :=
  ∀ (ra : Reg) (s : State),
    exec (.tz ra) s = .next (s.setT (decide (s.x ra = ⟨0, 0, 0, 0⟩))) ∧
    exec (.tmsb ra) s = .next (s.setT ((raw (s.x ra)).testBit 127)) ∧
    exec (.tlsb ra) s = .next (s.setT ((raw (s.x ra)).testBit 0))

/-- `TBIT.U` and `TBIT.S` for every index, below 0 and above 127 included (R88, R89). That the index is IW read as a
signed number is the spec's own choice (D20, log entry 12). -/
def Obligations.IndexedBitTests : Prop :=
  ∀ (ra : Reg) (imm : Word) (s : State),
    exec (.tbitU ra imm) s = .next (s.setT
      (decide (0 ≤ imm.toInt) && decide (imm.toInt < 128) && (raw (s.x ra)).testBit imm.toInt.toNat)) ∧
    exec (.tbitS ra imm) s = .next (s.setT
      (if 128 ≤ imm.toInt then (raw (s.x ra)).testBit 127
       else decide (0 ≤ imm.toInt) && (raw (s.x ra)).testBit imm.toInt.toNat))

/-- `SMSB` sets bit 127 and leaves every other bit (R92). That the bit is set to 1 is the spec's own reading (D18, log
entry 12). -/
def Obligations.SetTopBit : Prop :=
  ∀ (rd ra : Reg) (s : State), ∃ q : Quad, exec (.smsb rd ra) s = .next (s.writeX rd q) ∧
    (raw q).testBit 127 = true ∧ ∀ j, j < 127 → (raw q).testBit j = (raw (s.x ra)).testBit j

/-! ## Multiply -/

/-- `MUL.U` and `MUL.S` (44_multiply.md R96, R97): the signed product rounds toward minus infinity. -/
def Obligations.MultiplyRegisters : Prop :=
  ∀ (rd ra rb : Reg) (s : State),
    exec (.mulU rd ra rb) s =
      .next (s.writeX rd (quadOfNat (raw (s.x ra) * raw (s.x rb) % 2 ^ 160 / 2 ^ 32))) ∧
    exec (.mulS rd ra rb) s =
      .next (s.writeX rd (quadOfInt (rawSigned (s.x ra) * rawSigned (s.x rb) / 2 ^ 32)))

/-- `MULI.U` and `MULI.S` (R98, R99). -/
def Obligations.MultiplyByPlainInteger : Prop :=
  ∀ (rd ra : Reg) (imm : Word) (s : State),
    exec (.muliU rd ra imm) s = .next (s.writeX rd (quadOfNat (imm.toNat * raw (s.x ra)))) ∧
    exec (.muliS rd ra imm) s = .next (s.writeX rd (quadOfInt (imm.toInt * rawSigned (s.x ra))))

/-! ## Divide -/

/-- `DIV.U` (45_divide.md R104): zero for a zero divisor, else the truncated quotient modulo `2^128`. For dividends of
`2^96` raw and more the quotient rests on the spec's own choice of the divider's width (D15, log entry 12). -/
def Obligations.DivideUnsigned : Prop :=
  ∀ (rd ra rb : Reg) (s : State),
    exec (.divU rd ra rb) s = .next (s.writeX rd
      (if raw (s.x rb) = 0 then ⟨0, 0, 0, 0⟩ else quadOfNat (raw (s.x ra) * 2 ^ 32 / raw (s.x rb))))

/-- `DIV.S` (R105): magnitudes divided, truncation toward zero, the sign from the operands' sign bits. With the most
negative operand this is what R108 derives and flags (U3, log entry 9). For dividends of magnitude `2^96` raw and more the
quotient rests on the spec's own choice of the divider's width (D15, log entry 12). -/
def Obligations.DivideSigned : Prop :=
  ∀ (rd ra rb : Reg) (s : State),
    let q : Nat := (rawSigned (s.x ra)).natAbs * 2 ^ 32 / (rawSigned (s.x rb)).natAbs
    exec (.divS rd ra rb) s = .next (s.writeX rd
      (if rawSigned (s.x rb) = 0 then ⟨0, 0, 0, 0⟩
       else if rawSigned (s.x ra) < 0 ↔ rawSigned (s.x rb) < 0 then quadOfInt q
       else quadOfInt (-(q : Int))))

/-- `DIVI.U` and `DIVI.S` (R106, R107): no pre-widening (the spec's own choice, D14, log entry 12); zero for a zero
integer; truncation toward zero. With the most negative operand see R108 (U3, log entry 9). For large dividends the
quotient rests on the spec's own choice of the divider's width (D15, log entry 12). -/
def Obligations.DivideByPlainInteger : Prop :=
  ∀ (rd ra : Reg) (imm : Word) (s : State),
    exec (.diviU rd ra imm) s = .next (s.writeX rd
      (if imm = 0 then ⟨0, 0, 0, 0⟩ else quadOfNat (raw (s.x ra) / imm.toNat))) ∧
    exec (.diviS rd ra imm) s = .next (s.writeX rd
      (if imm = 0 then ⟨0, 0, 0, 0⟩ else quadOfInt ((rawSigned (s.x ra)).tdiv imm.toInt)))

/-- The table of R108: signed division with the most negative operand (derived and flagged by the spec, U3, log entry 9),
and by zero. The rows that divide the most negative value rest also on the spec's own choice of the divider's width (D15,
log entry 12). -/
def Obligations.SignedDivisionBoundary : Prop :=
  ∀ (rd ra rb : Reg) (s : State),
    let min : Quad := ⟨0, 0, 0, 0x80000000⟩
    let gives (q : Quad) : Prop := exec (.divS rd ra rb) s = .next (s.writeX rd q)
    (s.x ra = min ∧ s.x rb = ⟨0, 1, 0, 0⟩ → gives min) ∧
    (s.x ra = min ∧ s.x rb = ⟨0, 0xFFFFFFFF, 0xFFFFFFFF, 0xFFFFFFFF⟩ → gives min) ∧
    (s.x ra = min ∧ s.x rb = min → gives ⟨0, 1, 0, 0⟩) ∧
    (s.x ra = min ∧ s.x rb = ⟨0, 2, 0, 0⟩ → gives ⟨0, 0, 0, 0xC0000000⟩) ∧
    (s.x ra = min ∧ s.x rb = ⟨0x80000000, 0, 0, 0⟩ → gives ⟨0, 0, 0, 0⟩) ∧
    (s.x ra = ⟨0, 1, 0, 0⟩ ∧ s.x rb = min → gives ⟨0, 0, 0, 0⟩) ∧
    (s.x rb = ⟨0, 0, 0, 0⟩ → gives ⟨0, 0, 0, 0⟩) ∧
    (s.x ra = ⟨0, 0, 0, 0⟩ → gives ⟨0, 0, 0, 0⟩)

/-- Multiply then divide by the same factor (property P4 as 90_conflicts.md C4 restricts it): with no overflow the
result is at most the operand and at most `ceil(2^32 / b)` units below it, so within one unit when `b ≥ 1.0`. It rests on the
spec's own choice of the divider's width, made so that this property holds (D15, log entry 12). The case `rd = rb`, in
which the product overwrites the factor, is no instance of the property. -/
def Obligations.MultiplyThenDivideBound : Prop :=
  ∀ (rd ra rb : Reg) (s : State), rd ≠ rb → raw (s.x rb) ≠ 0 →
    raw (s.x ra) * raw (s.x rb) / 2 ^ 32 < 2 ^ 128 →
    ∃ t, runCommands [.mulU rd ra rb, .divU rd rd rb] s = .next t ∧
      raw (t.x rd) ≤ raw (s.x ra) ∧
      raw (s.x ra) ≤ raw (t.x rd) + (2 ^ 32 + raw (s.x rb) - 1) / raw (s.x rb)

/-! ## Square root -/

/-- `SQRT.U` gives the engine's result; `SQRT.S` gives zero for a negative operand and otherwise what `SQRT.U` gives;
zero gives zero (46_sqrt.md R110, R111). What the engine computes for other operands is `SquareRootProcedure` (D16, D17, log
entry 10). -/
def Obligations.SquareRootCommands : Prop :=
  ∀ (rd ra : Reg) (s : State),
    exec (.sqrtU rd ra) s = .next (s.writeX rd (quadOf (sqrtFx (quadWords (s.x ra))))) ∧
    (rawSigned (s.x ra) < 0 → exec (.sqrtS rd ra) s = .next (s.writeX rd ⟨0, 0, 0, 0⟩)) ∧
    (0 ≤ rawSigned (s.x ra) → exec (.sqrtS rd ra) s = exec (.sqrtU rd ra) s) ∧
    (s.x ra = ⟨0, 0, 0, 0⟩ → exec (.sqrtU rd ra) s = .next (s.writeX rd ⟨0, 0, 0, 0⟩))

/-- The engine's procedure (R109). A zero operand gives zero. Else the seed is the operand shifted right by half its bit
length, the halved operand its value div 2, and the result is an estimate the refinement reaches, on which either `delta`
is 0 or 1, or which is the estimate after N_SQRT steps. One step from the estimate `est`: `delta` is
`half · 2^32 div est − est div 2` modulo `2^128`; the step stops when `delta` is 0 or 1 and else goes on from
`est + delta` modulo `2^128`; the estimates are these steps iterated from the seed. The seed shift and the cap are the
spec's own choices (D16, D17, log entry 10), and so is the width of the divider each step uses (D15, log entry 12). -/
def Obligations.SquareRootProcedure : Prop :=
  (∀ v : WordBuf, v.length = 4 → uval v = 0 → sqrtFx v = buf 4 0) ∧
  (∀ v : WordBuf, v.length = 4 → uval v ≠ 0 →
    sqrtSeed v = buf 4 (uval v / 2 ^ ((Nat.log2 (uval v) + 1) / 2)) ∧
    shrUWords v 1 = buf 4 (uval v / 2) ∧
    ∃ n est, n ≤ Config.nSqrt ∧ sqrtEstimate (shrUWords v 1) (sqrtSeed v) n = some est ∧ sqrtFx v = est ∧
      (uval (sqrtDelta (shrUWords v 1) est) ≤ 1 ∨ n = Config.nSqrt)) ∧
  (∀ half est : WordBuf, half.length = 4 → est.length = 4 → uval est ≠ 0 →
    let delta : Int :=
      (((uval half * 2 ^ 32 / uval est : Nat) : Int) - ((uval est / 2 : Nat) : Int)) % 2 ^ 128
    (uval (sqrtDelta half est) : Int) = delta ∧
    sqrtStep half est = if delta ≤ 1 then none else some (bufInt 4 ((uval est : Int) + delta))) ∧
  (∀ (half seed : WordBuf) (n : Nat), sqrtEstimate half seed 0 = some seed ∧
    sqrtEstimate half seed (n + 1) = (sqrtEstimate half seed n).bind (sqrtStep half))

/-- "inside `SQRT` it cannot occur": no estimate the engine divides by is ever zero (60_exceptions.md R138, R109).
It rests on the spec's seed shift, rounded down so that the seed is not zero (D16, log entry 10), and on the divider's
width (D15, log entry 12). -/
def Obligations.SquareRootNeverDividesByZero : Prop :=
  ∀ (v : WordBuf) (n : Nat) (est : WordBuf), v.length = 4 → uval v ≠ 0 →
    sqrtEstimate (shrUWords v 1) (sqrtSeed v) n = some est → uval est ≠ 0

/-- The operand's lowest bit never influences the result, for operands of bit length 2 or more (R112). It
rests on the spec's seed shift (D16, log entry 10). -/
def Obligations.SquareRootIgnoresTheLowestBit : Prop :=
  ∀ v w : WordBuf, v.length = 4 → w.length = 4 → 2 ≤ uval v → uval v / 2 = uval w / 2 → sqrtFx v = sqrtFx w

/-- The engine's result for every operand of table 2.8 of 96_test_vectors_mul_div_sqrt.md (its `SQRT.U` column) and for the
raw operands 5, 8 and 9 of R112 (the examples of R110 and R111 are among them). The last unit of an inexact root and the
magnitude boundary, which U4 flags, rest on the spec's own seed shift and cap (D16, D17, log entry 10). In the last four rows
the engine divides a halved operand of `2^96` raw units or more, so they rest also on the spec's own choice of the divider's
width (D15, log entry 12). -/
def Obligations.SquareRootExamples : Prop :=
  quadOf (sqrtFx [0, 0, 0, 0]) = ⟨0, 0, 0, 0⟩ ∧
  quadOf (sqrtFx [0, 1, 0, 0]) = ⟨0, 1, 0, 0⟩ ∧
  quadOf (sqrtFx [0, 4, 0, 0]) = ⟨0, 2, 0, 0⟩ ∧
  quadOf (sqrtFx [0, 9, 0, 0]) = ⟨0, 3, 0, 0⟩ ∧
  quadOf (sqrtFx [0, 0x19, 0, 0]) = ⟨0, 5, 0, 0⟩ ∧
  quadOf (sqrtFx [0x40000000, 0, 0, 0]) = ⟨0x80000000, 0, 0, 0⟩ ∧
  quadOf (sqrtFx [0x40000000, 2, 0, 0]) = ⟨0x80000000, 1, 0, 0⟩ ∧
  quadOf (sqrtFx [0, 0x5F5E1000, 0, 0]) = ⟨0, 0x00009C40, 0, 0⟩ ∧
  quadOf (sqrtFx [0, 0, 0, 1]) = ⟨0, 0, 1, 0⟩ ∧
  quadOf (sqrtFx [0, 2, 0, 0]) = ⟨0x6A09E667, 1, 0, 0⟩ ∧
  quadOf (sqrtFx [0x80000000, 0, 0, 0]) = ⟨0xB504F333, 0, 0, 0⟩ ∧
  quadOf (sqrtFx [1, 0, 0, 0]) = ⟨1, 0, 0, 0⟩ ∧
  quadOf (sqrtFx [2, 0, 0, 0]) = ⟨0x00016A09, 0, 0, 0⟩ ∧
  quadOf (sqrtFx [3, 0, 0, 0]) = ⟨0x00016A09, 0, 0, 0⟩ ∧
  quadOf (sqrtFx [4, 0, 0, 0]) = ⟨0x00020000, 0, 0, 0⟩ ∧
  quadOf (sqrtFx [5, 0, 0, 0]) = ⟨0x00020000, 0, 0, 0⟩ ∧
  quadOf (sqrtFx [8, 0, 0, 0]) = ⟨185363, 0, 0, 0⟩ ∧
  quadOf (sqrtFx [9, 0, 0, 0]) = ⟨185363, 0, 0, 0⟩ ∧
  quadOf (sqrtFx [0xFFFFFFFF, 0xFFFFFFFF, 0xFFFFFFFF, 0x7FFFFFFF]) = ⟨0x6484597D, 0xF333F9DE, 0x0000B504, 0⟩ ∧
  quadOf (sqrtFx [0, 0, 0, 0x80000000]) = ⟨0x6484597D, 0xF333F9DE, 0x0000B504, 0⟩ ∧
  quadOf (sqrtFx [0xFFFFFFFF, 0xFFFFFFFF, 0xFFFFFFFF, 0xFFFFFFFF]) = ⟨0xFFFFFFFF, 0xFFFFFFFF, 0x0000FFFF, 0⟩ ∧
  quadOf (sqrtFx [0, 0xFFFFFFFB, 0xFFFFFFFF, 0xFFFFFFFF]) = ⟨0xFFFFFFFF, 0xFFFFFFFF, 0x0000FFFF, 0⟩
end

