-- ==== Sys2Proof/Laws/State.lean ====
section
/-! SUPPORT. One lemma per field per state update, and the laws of reading a register word after a write. -/

namespace Sys2Proof.Machine

/-! ## Status, RDATA and ports: each update leaves the other fields alone -/

section
variable (s : State) (r : Reg) (k : WordIx) (q : Quad) (w : Word) (b : Bool) (l : List HostInput)

@[simp] theorem writeX_status : (s.writeX r q).status = s.status := rfl
@[simp] theorem writeX_rdata : (s.writeX r q).rdata = s.rdata := rfl
@[simp] theorem writeX_rspValid : (s.writeX r q).rspValid = s.rspValid := rfl
@[simp] theorem writeX_inputs : (s.writeX r q).inputs = s.inputs := rfl
@[simp] theorem writeX_resets : (s.writeX r q).resets = s.resets := rfl

@[simp] theorem writeWord_status : (s.writeWord r k w).status = s.status := rfl
@[simp] theorem writeWord_rdata : (s.writeWord r k w).rdata = s.rdata := rfl
@[simp] theorem writeWord_rspValid : (s.writeWord r k w).rspValid = s.rspValid := rfl
@[simp] theorem writeWord_inputs : (s.writeWord r k w).inputs = s.inputs := rfl
@[simp] theorem writeWord_resets : (s.writeWord r k w).resets = s.resets := rfl

@[simp] theorem setRdata_regs : (s.setRdata w).regs = s.regs := rfl
@[simp] theorem setRdata_written : (s.setRdata w).written = s.written := rfl
@[simp] theorem setRdata_status : (s.setRdata w).status = s.status := rfl
@[simp] theorem setRdata_rdata : (s.setRdata w).rdata = w := rfl
@[simp] theorem setRdata_rspValid : (s.setRdata w).rspValid = s.rspValid := rfl
@[simp] theorem setRdata_inputs : (s.setRdata w).inputs = s.inputs := rfl
@[simp] theorem setRdata_resets : (s.setRdata w).resets = s.resets := rfl

@[simp] theorem setC_regs : (s.setC b).regs = s.regs := rfl
@[simp] theorem setC_written : (s.setC b).written = s.written := rfl
@[simp] theorem setC_c : (s.setC b).status.c = b := rfl
@[simp] theorem setC_t : (s.setC b).status.t = s.status.t := rfl
@[simp] theorem setC_rdata : (s.setC b).rdata = s.rdata := rfl
@[simp] theorem setC_rspValid : (s.setC b).rspValid = s.rspValid := rfl
@[simp] theorem setC_inputs : (s.setC b).inputs = s.inputs := rfl
@[simp] theorem setC_resets : (s.setC b).resets = s.resets := rfl

@[simp] theorem setT_regs : (s.setT b).regs = s.regs := rfl
@[simp] theorem setT_written : (s.setT b).written = s.written := rfl
@[simp] theorem setT_c : (s.setT b).status.c = s.status.c := rfl
@[simp] theorem setT_t : (s.setT b).status.t = b := rfl
@[simp] theorem setT_rdata : (s.setT b).rdata = s.rdata := rfl
@[simp] theorem setT_rspValid : (s.setT b).rspValid = s.rspValid := rfl
@[simp] theorem setT_inputs : (s.setT b).inputs = s.inputs := rfl
@[simp] theorem setT_resets : (s.setT b).resets = s.resets := rfl

@[simp] theorem takeInput_regs : (s.takeInput l).regs = s.regs := rfl
@[simp] theorem takeInput_written : (s.takeInput l).written = s.written := rfl
@[simp] theorem takeInput_status : (s.takeInput l).status = s.status := rfl
@[simp] theorem takeInput_rdata : (s.takeInput l).rdata = s.rdata := rfl
@[simp] theorem takeInput_rspValid : (s.takeInput l).rspValid = s.rspValid := rfl
@[simp] theorem takeInput_inputs : (s.takeInput l).inputs = l := rfl
@[simp] theorem takeInput_resets : (s.takeInput l).resets = s.resets := rfl

@[simp] theorem retire_regs : s.retire.regs = s.regs := rfl
@[simp] theorem retire_written : s.retire.written = s.written := rfl
@[simp] theorem retire_status : s.retire.status = s.status := rfl
@[simp] theorem retire_rdata : s.retire.rdata = s.rdata := rfl
@[simp] theorem retire_rspValid : s.retire.rspValid = true := rfl
@[simp] theorem retire_inputs : s.retire.inputs = s.inputs := rfl
@[simp] theorem retire_resets : s.retire.resets = s.resets := rfl

@[simp] theorem stayIdle_regs : s.stayIdle.regs = s.regs := rfl
@[simp] theorem stayIdle_written : s.stayIdle.written = s.written := rfl
@[simp] theorem stayIdle_status : s.stayIdle.status = s.status := rfl
@[simp] theorem stayIdle_rdata : s.stayIdle.rdata = s.rdata := rfl
@[simp] theorem stayIdle_rspValid : s.stayIdle.rspValid = false := rfl
@[simp] theorem stayIdle_inputs : s.stayIdle.inputs = s.inputs := rfl
@[simp] theorem stayIdle_resets : s.stayIdle.resets = s.resets := rfl

@[simp] theorem enterReset_status : s.enterReset.status = ⟨false, false⟩ := rfl
@[simp] theorem enterReset_rdata : s.enterReset.rdata = 0 := rfl
@[simp] theorem enterReset_rspValid : s.enterReset.rspValid = false := rfl
@[simp] theorem enterReset_inputs : s.enterReset.inputs = s.inputs := rfl
@[simp] theorem enterReset_resets : s.enterReset.resets = s.resets + 1 := rfl

/-! ## The output ports show the state -/

@[simp] theorem ports_rspValid : s.ports.rspValid = s.rspValid := rfl
@[simp] theorem ports_rdata : s.ports.rdata = s.rdata := rfl
@[simp] theorem ports_status0 : s.ports.status0 = s.status.c := rfl
@[simp] theorem ports_status1 : s.ports.status1 = s.status.t := rfl

/-! ## Registers and marks read after an update -/

@[simp] theorem setRdata_x : (s.setRdata w).x r = s.x r := rfl
@[simp] theorem setC_x : (s.setC b).x r = s.x r := rfl
@[simp] theorem setT_x : (s.setT b).x r = s.x r := rfl
@[simp] theorem takeInput_x : (s.takeInput l).x r = s.x r := rfl
@[simp] theorem retire_x : s.retire.x r = s.x r := rfl
@[simp] theorem stayIdle_x : s.stayIdle.x r = s.x r := rfl

@[simp] theorem setRdata_marks : (s.setRdata w).marks r = s.marks r := rfl
@[simp] theorem setRdata_isWritten : (s.setRdata w).isWritten r k = s.isWritten r k := rfl
@[simp] theorem setC_marks : (s.setC b).marks r = s.marks r := rfl
@[simp] theorem setC_isWritten : (s.setC b).isWritten r k = s.isWritten r k := rfl
@[simp] theorem setT_marks : (s.setT b).marks r = s.marks r := rfl
@[simp] theorem setT_isWritten : (s.setT b).isWritten r k = s.isWritten r k := rfl
@[simp] theorem takeInput_marks : (s.takeInput l).marks r = s.marks r := rfl
@[simp] theorem takeInput_isWritten : (s.takeInput l).isWritten r k = s.isWritten r k := rfl
@[simp] theorem retire_marks : s.retire.marks r = s.marks r := rfl
@[simp] theorem retire_isWritten : s.retire.isWritten r k = s.isWritten r k := rfl
@[simp] theorem stayIdle_marks : s.stayIdle.marks r = s.marks r := rfl
@[simp] theorem stayIdle_isWritten : s.stayIdle.isWritten r k = s.isWritten r k := rfl

@[simp] theorem writeX_x_self : (s.writeX r q).x r = q := by simp [State.writeX, State.x]

@[simp] theorem enterReset_x : s.enterReset.x r = quadAfterRst s.resets r := by
  simp [State.enterReset, State.x]

@[simp] theorem writeX_marks_self : (s.writeX r q).marks r = Vector.replicate 4 true := by
  simp [State.writeX, State.marks]

@[simp] theorem writeWord_marks_self : (s.writeWord r k w).marks r = (s.marks r).set k true := by
  simp [State.writeWord, State.marks]

@[simp] theorem enterReset_marks : s.enterReset.marks r = Vector.replicate 4 false := by
  simp [State.enterReset, State.marks]

@[simp] theorem enterReset_isWritten : s.enterReset.isWritten r k = false := by
  simp [State.isWritten]

@[simp] theorem writeX_isWritten_self : (s.writeX r q).isWritten r k = true := by
  simp [State.isWritten]

@[simp] theorem writeWord_x_self : (s.writeWord r k w).x r = quadSetWord (s.x r) k w := by
  simp [State.writeWord, State.x]

@[simp] theorem writeWord_isWritten_self : (s.writeWord r k w).isWritten r k = true := by
  simp [State.isWritten]

end

theorem reg_val_ne {r r' : Reg} (h : r' ≠ r) : r.val ≠ r'.val := fun e => h (Fin.ext e.symm)

theorem writeX_x_ne (s : State) {r r' : Reg} (q : Quad) (h : r' ≠ r) : (s.writeX r q).x r' = s.x r' := by
  simp only [State.writeX, State.x, Fin.getElem_fin]
  exact Vector.getElem_set_ne _ _ (reg_val_ne h)

theorem writeX_marks_ne (s : State) {r r' : Reg} (q : Quad) (h : r' ≠ r) :
    (s.writeX r q).marks r' = s.marks r' := by
  simp only [State.writeX, State.marks, Fin.getElem_fin]
  exact Vector.getElem_set_ne _ _ (reg_val_ne h)

theorem writeX_isWritten_ne (s : State) {r r' : Reg} (q : Quad) (k : WordIx) (h : r' ≠ r) :
    (s.writeX r q).isWritten r' k = s.isWritten r' k := by
  simp only [State.isWritten, writeX_marks_ne s q h]

theorem writeWord_x_ne (s : State) {r r' : Reg} (k : WordIx) (w : Word) (h : r' ≠ r) :
    (s.writeWord r k w).x r' = s.x r' := by
  simp only [State.writeWord, State.x, Fin.getElem_fin]
  exact Vector.getElem_set_ne _ _ (reg_val_ne h)

theorem writeWord_marks_ne (s : State) {r r' : Reg} (k : WordIx) (w : Word) (h : r' ≠ r) :
    (s.writeWord r k w).marks r' = s.marks r' := by
  simp only [State.writeWord, State.marks, Fin.getElem_fin]
  exact Vector.getElem_set_ne _ _ (reg_val_ne h)

theorem writeWord_isWritten_ne (s : State) {r r' : Reg} (k k' : WordIx) (w : Word) (h : r' ≠ r) :
    (s.writeWord r k w).isWritten r' k' = s.isWritten r' k' := by
  simp only [State.isWritten, writeWord_marks_ne s k w h]

theorem writeWord_isWritten_other (s : State) (r : Reg) {k k' : WordIx} (w : Word) (h : k' ≠ k) :
    (s.writeWord r k w).isWritten r k' = s.isWritten r k' := by
  have hk : k.val ≠ k'.val := fun e => h (Fin.ext e.symm)
  simp only [State.isWritten, writeWord_marks_self, Fin.getElem_fin]
  exact Vector.getElem_set_ne _ _ hk

/-! ## The words of a register's content -/

@[simp] theorem quadWord_setWord_self (q : Quad) (k : WordIx) (w : Word) : quadWord (quadSetWord q k w) k = w := by
  fin_cases k <;> rfl

theorem quadWord_setWord_ne (q : Quad) {k k' : WordIx} (w : Word) (h : k' ≠ k) :
    quadWord (quadSetWord q k w) k' = quadWord q k' := by
  fin_cases k <;> fin_cases k' <;> first | rfl | exact absurd rfl h

/-- Two contents with the same four words are equal. -/
theorem quad_ext_words {p q : Quad} (h : ∀ k, quadWord p k = quadWord q k) : p = q := by
  cases p; cases q
  have h0 := h 0; have h1 := h 1; have h2 := h 2; have h3 := h 3
  simp only [quadWord] at h0 h1 h2 h3
  subst h0; subst h1; subst h2; subst h3; rfl

/-- Two register files with the same registers are equal. -/
theorem regs_ext {s t : State} (h : ∀ r, s.x r = t.x r) : s.regs = t.regs :=
  Vector.ext fun i hi => h ⟨i, hi⟩

/-- Two sets of marks with the same mark of every word are equal. -/
theorem written_ext {s t : State} (h : ∀ r k, s.isWritten r k = t.isWritten r k) : s.written = t.written :=
  Vector.ext fun i hi => Vector.ext fun j hj => h ⟨i, hi⟩ ⟨j, hj⟩

end Sys2Proof.Machine
end

