-- ==== Sys2Proof/Laws/Buffer.lean ====
section
/-! SUPPORT. Word buffers and the integers they hold (00_scope.md R6): the round trips between `buf`, `uval`, the four
words of a register and its raw value, and the bounds of `uval`. -/

namespace Sys2Proof.Machine

@[simp] theorem buf_length (n v : Nat) : (buf n v).length = n := by
  induction n generalizing v with
  | zero => rfl
  | succ n ih => simp [buf, ih]

@[simp] theorem bufInt_length (n : Nat) (v : Int) : (bufInt n v).length = n := buf_length _ _

theorem uval_lt (b : WordBuf) : uval b < 2 ^ (32 * b.length) := by
  induction b with
  | nil => simp [uval]
  | cons w ws ih =>
    have hw := w.isLt
    have : 2 ^ (32 * (w :: ws).length) = 2 ^ 32 * 2 ^ (32 * ws.length) := by
      rw [List.length_cons, Nat.mul_add, Nat.pow_add, Nat.mul_comm]
    rw [this, uval]
    nlinarith

/-- `uval(buf_n(v)) = v mod 2^(32n)` (R6). -/
theorem uval_buf (n v : Nat) : uval (buf n v) = v % 2 ^ (32 * n) := by
  induction n generalizing v with
  | zero => simp [buf, uval, Nat.mod_one]
  | succ n ih =>
    have : 2 ^ (32 * (n + 1)) = 2 ^ 32 * 2 ^ (32 * n) := by rw [Nat.mul_add, Nat.pow_add, Nat.mul_comm]
    rw [buf, uval, ih, this, Nat.mod_mul, BitVec.toNat_ofNat]

/-- A buffer is determined by its length and the integer it holds. -/
theorem buf_uval (b : WordBuf) : buf b.length (uval b) = b := by
  induction b with
  | nil => rfl
  | cons w ws ih =>
    have hw := w.isLt
    have h1 : (w.toNat + 2 ^ 32 * uval ws) / 2 ^ 32 = uval ws := by omega
    have h2 : BitVec.ofNat 32 (w.toNat + 2 ^ 32 * uval ws) = w := by
      apply BitVec.eq_of_toNat_eq
      rw [BitVec.toNat_ofNat]; omega
    simp only [List.length_cons, buf, uval, h1, h2, ih]

theorem eq_of_uval_eq {a b : WordBuf} (hl : a.length = b.length) (h : uval a = uval b) : a = b := by
  rw [← buf_uval a, ← buf_uval b, hl, h]

theorem eq_buf_of_uval {b : WordBuf} {n v : Nat} (hl : b.length = n) (h : uval b = v % 2 ^ (32 * n)) : b = buf n v :=
  eq_of_uval_eq (by simp [hl]) (by rw [h, uval_buf])

theorem buf_mod (n v : Nat) : buf n (v % 2 ^ (32 * n)) = buf n v :=
  eq_of_uval_eq (by simp) (by simp [uval_buf])

@[simp] theorem uval_nil : uval [] = 0 := rfl
@[simp] theorem uval_cons (w : Word) (ws : WordBuf) : uval (w :: ws) = w.toNat + 2 ^ 32 * uval ws := rfl

/-! ## The four words of a register -/

@[simp] theorem quadWords_length (q : Quad) : (quadWords q).length = 4 := rfl
@[simp] theorem quadOf_quadWords (q : Quad) : quadOf (quadWords q) = q := rfl

theorem quadWords_quadOf {b : WordBuf} (h : b.length = 4) : quadWords (quadOf b) = b := by
  match b, h with
  | [_, _, _, _], _ => rfl

theorem raw_lt (q : Quad) : raw q < 2 ^ 128 := uval_lt (quadWords q)

theorem raw_quadOf {b : WordBuf} (h : b.length = 4) : raw (quadOf b) = uval b := by
  rw [raw, quadWords_quadOf h]

@[simp] theorem raw_quadOfNat (v : Nat) : raw (quadOfNat v) = v % 2 ^ 128 := by
  rw [quadOfNat, raw_quadOf (buf_length 4 v), uval_buf]

@[simp] theorem quadOfNat_raw (q : Quad) : quadOfNat (raw q) = q := by
  rw [quadOfNat, raw, show buf 4 (uval (quadWords q)) = quadWords q from buf_uval (quadWords q), quadOf_quadWords]

theorem eq_of_raw_eq {p q : Quad} (h : raw p = raw q) : p = q := by
  rw [← quadOfNat_raw p, ← quadOfNat_raw q, h]

/-- A 4-word result is the content with the integer it holds. -/
theorem quadOf_eq_quadOfNat {b : WordBuf} {v : Nat} (hl : b.length = 4) (h : uval b = v % 2 ^ 128) :
    quadOf b = quadOfNat v := by
  rw [quadOfNat, eq_buf_of_uval hl h]

theorem quadOf_eq_quadOfInt {b : WordBuf} {v : Int} (hl : b.length = 4) (h : (uval b : Int) = v % 2 ^ 128) :
    quadOf b = quadOfInt v := by
  rw [quadOfInt, bufInt, eq_buf_of_uval hl]
  have hlt : uval b < 2 ^ 128 := by have := uval_lt b; rwa [hl] at this
  simp only [Nat.reduceMul, ← h, Int.toNat_natCast]
  exact (Nat.mod_eq_of_lt hlt).symm

/-- `uval(buf_n(v)) = v mod 2^(32n)` for an integer (R6, R8). -/
theorem uval_bufInt (n : Nat) (v : Int) : (uval (bufInt n v) : Int) = v % 2 ^ (32 * n) := by
  have hpos : (0 : Int) < 2 ^ (32 * n) := by positivity
  have h0 := Int.emod_nonneg v hpos.ne'
  have hlt := Int.emod_lt_of_pos v hpos
  rw [bufInt, uval_buf]
  have : (v % 2 ^ (32 * n)).toNat < 2 ^ (32 * n) := by
    zify; rw [Int.toNat_of_nonneg h0]; exact hlt
  rw [Nat.mod_eq_of_lt this, Int.toNat_of_nonneg h0]

/-! ## Bits, sign, signed value -/

theorem bitAt_eq_testBit (b : WordBuf) (j : Nat) : bitAt b j = (uval b).testBit j := by
  induction b generalizing j with
  | nil => simp [bitAt, uval]
  | cons w ws ih =>
    have hw := w.isLt
    have key : uval (w :: ws) = 2 ^ 32 * uval ws + w.toNat := by rw [uval, Nat.add_comm]
    rw [key, Nat.testBit_two_pow_mul_add _ hw]
    split
    · next hj =>
      simp [bitAt, Nat.div_eq_of_lt hj, Nat.mod_eq_of_lt hj, BitVec.testBit_toNat]
    · next hj =>
      obtain ⟨m, rfl⟩ : ∃ m, j = m + 32 := ⟨j - 32, by omega⟩
      rw [Nat.add_sub_cancel, ← ih m]
      simp [bitAt, Nat.add_div_right]

/-- The sign bit says whether the unsigned value is in the upper half. -/
theorem signBit_eq_decide {b : WordBuf} (h : 0 < b.length) :
    signBit b = decide (2 ^ (32 * b.length - 1) ≤ uval b) := by
  have hlt := uval_lt b
  rw [signBit, bitAt_eq_testBit, Nat.testBit_eq_decide_div_mod_eq]
  have hp : 2 ^ (32 * b.length) = 2 * 2 ^ (32 * b.length - 1) := by
    rw [← Nat.pow_succ']; congr 1; omega
  have hpos : 0 < 2 ^ (32 * b.length - 1) := by positivity
  rw [hp] at hlt
  by_cases hle : 2 ^ (32 * b.length - 1) ≤ uval b
  · have : uval b / 2 ^ (32 * b.length - 1) = 1 :=
      Nat.div_eq_of_lt_le (by omega) (by omega)
    simp [this, hle]
  · have : uval b / 2 ^ (32 * b.length - 1) = 0 := Nat.div_eq_of_lt (by omega)
    simp [this, hle]

/-- The signed value and the unsigned value differ by a multiple of the modulus. -/
theorem sval_emod (b : WordBuf) : sval b % 2 ^ (32 * b.length) = (uval b : Int) := by
  have h : ((uval b : Int)) < 2 ^ (32 * b.length) := by exact_mod_cast uval_lt b
  unfold sval
  split
  · rw [Int.sub_emod_right, Int.emod_eq_of_lt (by positivity) h]
  · rw [Int.emod_eq_of_lt (by positivity) h]

end Sys2Proof.Machine
end

