-- ==== Sys2Proof/Laws/Lengths.lean ====
section
/-! SUPPORT. The word counts of every datapath function's result ("A buffer always has exactly its declared word count",
10_state.md R10). -/

namespace Sys2Proof.Machine

@[simp] theorem addCarry_length (a b : WordBuf) (c : Bool) : (addCarry a b c).1.length = min a.length b.length := by
  induction a generalizing b c with
  | nil => simp [addCarry]
  | cons x xs ih => cases b with
    | nil => simp [addCarry]
    | cons y ys => simp [addCarry, ih, Nat.succ_min_succ]

@[simp] theorem addWords_length (a b : WordBuf) : (addWords a b).1.length = min a.length b.length := addCarry_length _ _ _

@[simp] theorem subBorrow_length (a b : WordBuf) (c : Bool) : (subBorrow a b c).1.length = min a.length b.length := by
  induction a generalizing b c with
  | nil => simp [subBorrow]
  | cons x xs ih => cases b with
    | nil => simp [subBorrow]
    | cons y ys => simp [subBorrow, ih, Nat.succ_min_succ]

@[simp] theorem subWords_length (a b : WordBuf) : (subWords a b).1.length = min a.length b.length := subBorrow_length _ _ _

@[simp] theorem align_length (b : WordBuf) (fb sa fa : Nat) (fill : Word) : (align b fb sa fa fill).length = sa := by
  simp [align]

@[simp] theorem negWords_length (a : WordBuf) : (negWords a).length = a.length := by simp [negWords]

@[simp] theorem shlWords_length (a : WordBuf) (n : Nat) : (shlWords a n).length = a.length := by
  unfold shlWords; split <;> simp

@[simp] theorem shrUWords_length (a : WordBuf) (n : Nat) : (shrUWords a n).length = a.length := by
  unfold shrUWords; split <;> simp

@[simp] theorem shrSWords_length (a : WordBuf) (n : Nat) : (shrSWords a n).length = a.length := by
  unfold shrSWords; split
  · split <;> simp
  · simp

@[simp] theorem setMsb_length (a : WordBuf) : (setMsb a).length = a.length := by simp [setMsb]

@[simp] theorem makeZero_length (n : Nat) : (makeZero n).length = n := by simp [makeZero]

theorem ext_length {m : Nat} {b : WordBuf} (v : Variant) (h : b.length ≤ m) : (ext m b v).length = m := by
  simp [ext]; omega

@[simp] theorem multiply_length (so : Nat) (a b : WordBuf) (v : Variant) : (multiply so a b v).length = so := by
  simp [multiply]

@[simp] theorem divide_length (so : Nat) (a b : WordBuf) : (divide so a b).length = so := by
  unfold divide; split <;> simp

@[simp] theorem divideFx_length (a b : WordBuf) : (divideFx a b).length = 4 := divide_length _ _ _

@[simp] theorem narrowProduct_length {p : WordBuf} (h : p.length = 5) : ((p.drop 1).take 4).length = 4 := by
  simp [h]

/-- `ISZERO` is "the buffer holds 0" (R57). -/
theorem isZero_eq_decide (a : WordBuf) : isZero a = decide (uval a = 0) := by
  induction a with
  | nil => simp [isZero]
  | cons w ws ih =>
    have : isZero (w :: ws) = ((w == 0) && isZero ws) := by simp [isZero]
    rw [this, ih, uval_cons]
    have hw : (w == 0) = decide (w.toNat = 0) := by
      by_cases h : w = 0#32
      · simp [h]
      · have : w.toNat ≠ 0 := fun e => h (BitVec.eq_of_toNat_eq (by simpa using e))
        simp [h, this]
    rw [hw, ← Bool.decide_and]
    congr 1
    apply propext
    omega

/-- A word with bit 0 cleared is zero exactly when the word is 0 or 1. -/
theorem clearLowBit_eq_zero_iff (w : Word) : w &&& 0xFFFFFFFE#32 = 0#32 ↔ w.toNat ≤ 1 := by
  constructor
  · intro h
    have split : w = (w &&& 0xFFFFFFFE#32) ||| (w &&& 1#32) := by
      rw [← BitVec.and_or_distrib_left]
      exact BitVec.and_allOnes.symm
    rw [h, BitVec.zero_or] at split
    rw [split, BitVec.toNat_and]
    exact Nat.and_le_right
  · intro h
    have : w = BitVec.ofNat 32 w.toNat := by simp
    rw [this]
    generalize w.toNat = m at h
    interval_cases m <;> rfl

/-- The stop test of the square root is "`delta` is 0 or 1" (46_sqrt.md R109). -/
theorem sqrtConverged_eq_decide (delta : WordBuf) : sqrtConverged delta = decide (uval delta ≤ 1) := by
  cases delta with
  | nil => rfl
  | cons w ws =>
    have hw := w.isLt
    have hlow : ((w &&& 0xFFFFFFFE#32) == 0#32) = decide (w.toNat ≤ 1) := by
      rw [Bool.eq_iff_iff, beq_iff_eq, decide_eq_true_eq, clearLowBit_eq_zero_iff]
    have : sqrtConverged (w :: ws) = (((w &&& 0xFFFFFFFE#32) == 0#32) && isZero ws) := rfl
    rw [this, hlow, isZero_eq_decide, ← Bool.decide_and, uval_cons]
    congr 1
    apply propext
    omega

@[simp] theorem uval_makeZero (n : Nat) : uval (makeZero n) = 0 := by
  induction n with
  | zero => rfl
  | succ n ih => simpa [makeZero, List.replicate_succ] using ih

@[simp] theorem quadOf_makeZero : quadOf (makeZero 4) = ⟨0, 0, 0, 0⟩ := rfl

end Sys2Proof.Machine
end

