-- ==== Sys2Proof/Laws/Ops.lean ====
section
/-! SUPPORT. What each shared operation, each command and one step can do, said once. -/

namespace Sys2Proof.Machine

open Sys2Proof.Safety

/-! ## The result operations -/

theorem writeResult_next {rd : Reg} {out : WordBuf} {s t : State} (h : writeResult rd out s = .next t) :
    t = s.writeX rd (quadOf out) := by
  simpa [writeResult, eq_comm] using h

theorem writeResultC_next {rd : Reg} {out : WordBuf × Bool} {s t : State} (h : writeResultC rd out s = .next t) :
    t = (s.writeX rd (quadOf out.1)).setC out.2 := by
  simpa [writeResultC, eq_comm] using h

theorem writeTest_next {b : Bool} {s t : State} (h : writeTest b s = .next t) : t = s.setT b := by
  simpa [writeTest, eq_comm] using h

theorem writeRdata_next {w : Word} {s t : State} (h : writeRdata w s = .next t) : t = s.setRdata w := by
  simpa [writeRdata, eq_comm] using h

/-! ## What a command can do -/

/-- The shapes of a command's effect: it writes one register, one register and C, one register word, T, or RDATA. -/
inductive Effect (s : State) : Instr → State → Prop where
  | reg {i rd q} (hd : destOf i = some rd) (hc : writesC i = false) (ht : writesT i = false)
      (hr : writesRdata i = false) : Effect s i (s.writeX rd q)
  | regC {i rd q c} (hd : destOf i = some rd) (hc : writesC i = true) (ht : writesT i = false)
      (hr : writesRdata i = false) : Effect s i ((s.writeX rd q).setC c)
  | word {rd k w} : Effect s (.wrw rd k w) (s.writeWord rd k w)
  | test {i b} (hd : destOf i = none) (hc : writesC i = false) (ht : writesT i = true) (hr : writesRdata i = false) :
      Effect s i (s.setT b)
  | rdata {i w} (hd : destOf i = none) (hc : writesC i = false) (ht : writesT i = false)
      (hr : writesRdata i = true) : Effect s i (s.setRdata w)

/-- Every command answers a next state of one of these shapes. -/
theorem exec_effect (i : Instr) (s : State) : ∃ t, exec i s = .next t ∧ Effect s i t := by
  cases i
  case wrw rd k imm => exact ⟨_, rfl, .word⟩
  all_goals first
    | exact ⟨_, rfl, .reg rfl rfl rfl rfl⟩
    | exact ⟨_, rfl, .regC rfl rfl rfl rfl⟩
    | exact ⟨_, rfl, .test rfl rfl rfl rfl⟩
    | exact ⟨_, rfl, .rdata rfl rfl rfl rfl⟩

theorem effect_of_exec {i : Instr} {s t : State} (h : exec i s = .next t) : Effect s i t := by
  obtain ⟨t', ht, he⟩ := exec_effect i s
  rw [ht] at h
  cases h
  exact he

/-! ## What the search for an unwritten word can answer (10_state.md R13) -/

theorem firstUnwritten_none {s : State} {l : List (Reg × WordIx)} (h : firstUnwritten s l = none) :
    ∀ p ∈ l, s.isWritten p.1 p.2 = true := by
  induction l with
  | nil => simp
  | cons p ps ih =>
    simp only [firstUnwritten] at h
    split at h
    · next hw => exact List.forall_mem_cons.2 ⟨hw, ih h⟩
    · cases h

theorem firstUnwritten_some {s : State} {l : List (Reg × WordIx)} {p : Reg × WordIx}
    (h : firstUnwritten s l = some p) : p ∈ l ∧ s.isWritten p.1 p.2 = false := by
  induction l with
  | nil => cases h
  | cons q ps ih =>
    simp only [firstUnwritten] at h
    split at h
    · exact (ih h).imp_left (List.mem_cons_of_mem _)
    · next hw => cases h; exact ⟨List.mem_cons_self, by simpa using hw⟩

/-- What retiring shows on the ports (30_encoding.md R42). -/
theorem retiresTo_retire (t : State) : RetiresTo t t.retire := ⟨rfl, rfl, rfl, rfl, rfl⟩

/-! ## What a step can do -/

/-- The cases of a step that answers a next state. -/
inductive StepCases (s : State) : State → Prop where
  | done (h : s.inputs = []) : StepCases s s.stayIdle
  | idle {rest} (h : s.inputs = .idle :: rest) : StepCases s (s.takeInput rest).stayIdle
  | ran {c rest i t} (h : s.inputs = .command c :: rest) (hd : decode c = .command i)
      (he : exec i (s.takeInput rest) = .next t) : StepCases s t.retire
  | reset {inFlight rest} (h : s.inputs = .rst inFlight :: rest) (hf : reservedInFlight inFlight = none) :
      StepCases s (s.takeInput rest).enterReset

theorem step_next {s t : State} (h : step s = .next t) : StepCases s t := by
  unfold step at h
  split at h
  · next hi => cases h; exact .done hi
  · next rest hi => cases h; exact .idle hi
  · next c rest hi =>
    split at h
    · cases h
    · next i hd =>
      split at h
      · next u he => cases h; exact .ran hi hd he
      · cases h
      · cases h
  · next f rest hi =>
    split at h
    · cases h
    · next hf => cases h; exact .reset hi hf

end Sys2Proof.Machine
end

