-- ==== Sys2Proof/Laws/PerInstr.lean ====
section
/-! SUPPORT. Statements made once per instruction. `EncodedWellFormed`: the encoding of a command (30_encoding.md R33 to
R36, by its fields) is well formed by the row of the mask and match table that carries its mnemonic (R34). -/

namespace Sys2Proof.Laws.EncodedWellFormed

/-- The encoded control word matches the row of the command's mnemonic. -/
def Statement (i : Instr) : Prop :=
  ∃ row ∈ opcodeTable, row.mnemonic = i.mnemonic ∧ (encode i).cw &&& row.mask = row.bits

/-- A mask that keeps the opcode, the variant and the zero fields acts on each operand field alone. -/
theorem and_fields (op : BitVec 8) (s : BitVec 1) (z : BitVec 3) (d a b : BitVec 4) (y : BitVec 6) (k : BitVec 2)
    (md ma mb : BitVec 4) (mk : BitVec 2) :
    (op ++ s ++ z ++ d ++ a ++ b ++ y ++ k) &&&
        (BitVec.allOnes 8 ++ BitVec.allOnes 1 ++ BitVec.allOnes 3 ++ md ++ ma ++ mb ++ BitVec.allOnes 6 ++ mk) =
      op ++ s ++ z ++ (d &&& md) ++ (a &&& ma) ++ (b &&& mb) ++ y ++ (k &&& mk) := by
  simp only [BitVec.and_append, BitVec.and_allOnes]

/-- The shape of every case: a row of the table carries the command's mnemonic, its mask keeps the operand fields as
`md ma mb mk` say, and what it keeps is the row's match word. -/
theorem of_row {i : Instr} {m : String} {mask bits : Word} {op : BitVec 8} {s : Bool} {rd ra rb : Reg} {k : WordIx}
    {iw : Word} (md ma mb : BitVec 4) (mk : BitVec 2) (hrow : ⟨m, mask, bits⟩ ∈ opcodeTable) (hm : m = i.mnemonic)
    (he : encode i = ⟨packCw op s rd ra rb k, iw⟩)
    (hb : mask = BitVec.allOnes 8 ++ BitVec.allOnes 1 ++ BitVec.allOnes 3 ++ md ++ ma ++ mb ++ BitVec.allOnes 6 ++ mk
      ∧
      op ++ BitVec.ofBool s ++ 0#3 ++ (BitVec.ofNat 4 rd.val &&& md) ++ (BitVec.ofNat 4 ra.val &&& ma) ++
        (BitVec.ofNat 4 rb.val &&& mb) ++ 0#6 ++ (BitVec.ofNat 2 k.val &&& mk) = bits) : Statement i := by
  refine ⟨⟨m, mask, bits⟩, hrow, hm, ?_⟩
  rw [he, hb.1]
  exact (and_fields op _ _ _ _ _ _ _ md ma mb mk).trans hb.2

/-! ## One lemma per constructor -/

theorem mov (rd ra : Reg) : Statement (.mov rd ra) :=
  of_row (m := "MOV") (mask := 0xFFF00FFF) (bits := 0x01000000) 0 0 15 3 (by decide) rfl rfl (by simp)
theorem mkz (rd : Reg) : Statement (.mkz rd) :=
  of_row (m := "MKZ") (mask := 0xFFF0FFFF) (bits := 0x02000000) 0 15 15 3 (by decide) rfl rfl (by simp)
theorem wrw (rd : Reg) (k : WordIx) (imm : Word) : Statement (.wrw rd k imm) :=
  of_row (m := "WRW") (mask := 0xFFF0FFFC) (bits := 0x03000000) 0 15 15 0 (by decide) rfl rfl (by simp)
theorem rdw (ra : Reg) (k : WordIx) : Statement (.rdw ra k) :=
  of_row (m := "RDW") (mask := 0xFFFF0FFC) (bits := 0x04000000) 15 0 15 0 (by decide) rfl rfl (by simp)
theorem ldiU (rd : Reg) (imm : Word) : Statement (.ldiU rd imm) :=
  of_row (m := "LDI.U") (mask := 0xFFF0FFFF) (bits := 0x05000000) 0 15 15 3 (by decide) rfl rfl (by simp)
theorem ldiS (rd : Reg) (imm : Word) : Statement (.ldiS rd imm) :=
  of_row (m := "LDI.S") (mask := 0xFFF0FFFF) (bits := 0x05800000) 0 15 15 3 (by decide) rfl rfl (by simp)
theorem toiU (ra : Reg) : Statement (.toiU ra) :=
  of_row (m := "TOI.U") (mask := 0xFFFF0FFF) (bits := 0x06000000) 15 0 15 3 (by decide) rfl rfl (by simp)
theorem toiS (ra : Reg) : Statement (.toiS ra) :=
  of_row (m := "TOI.S") (mask := 0xFFFF0FFF) (bits := 0x06800000) 15 0 15 3 (by decide) rfl rfl (by simp)
theorem rds : Statement (.rds) :=
  of_row (m := "RDS") (mask := 0xFFFFFFFF) (bits := 0x07000000) 15 15 15 3 (by decide) rfl rfl (by simp)
theorem add (rd ra rb : Reg) : Statement (.add rd ra rb) :=
  of_row (m := "ADD") (mask := 0xFFF000FF) (bits := 0x10000000) 0 0 0 3 (by decide) rfl rfl (by simp)
theorem sub (rd ra rb : Reg) : Statement (.sub rd ra rb) :=
  of_row (m := "SUB") (mask := 0xFFF000FF) (bits := 0x11000000) 0 0 0 3 (by decide) rfl rfl (by simp)
theorem addiU (rd ra : Reg) (imm : Word) : Statement (.addiU rd ra imm) :=
  of_row (m := "ADDI.U") (mask := 0xFFF00FFF) (bits := 0x12000000) 0 0 15 3 (by decide) rfl rfl (by simp)
theorem addiS (rd ra : Reg) (imm : Word) : Statement (.addiS rd ra imm) :=
  of_row (m := "ADDI.S") (mask := 0xFFF00FFF) (bits := 0x12800000) 0 0 15 3 (by decide) rfl rfl (by simp)
theorem subiU (rd ra : Reg) (imm : Word) : Statement (.subiU rd ra imm) :=
  of_row (m := "SUBI.U") (mask := 0xFFF00FFF) (bits := 0x13000000) 0 0 15 3 (by decide) rfl rfl (by simp)
theorem subiS (rd ra : Reg) (imm : Word) : Statement (.subiS rd ra imm) :=
  of_row (m := "SUBI.S") (mask := 0xFFF00FFF) (bits := 0x13800000) 0 0 15 3 (by decide) rfl rfl (by simp)
theorem neg (rd ra : Reg) : Statement (.neg rd ra) :=
  of_row (m := "NEG") (mask := 0xFFF00FFF) (bits := 0x14000000) 0 0 15 3 (by decide) rfl rfl (by simp)
theorem inc (rd ra : Reg) : Statement (.inc rd ra) :=
  of_row (m := "INC") (mask := 0xFFF00FFF) (bits := 0x15000000) 0 0 15 3 (by decide) rfl rfl (by simp)
theorem dec (rd ra : Reg) : Statement (.dec rd ra) :=
  of_row (m := "DEC") (mask := 0xFFF00FFF) (bits := 0x16000000) 0 0 15 3 (by decide) rfl rfl (by simp)
theorem shl (rd ra : Reg) (imm : Word) : Statement (.shl rd ra imm) :=
  of_row (m := "SHL") (mask := 0xFFF00FFF) (bits := 0x20000000) 0 0 15 3 (by decide) rfl rfl (by simp)
theorem shrU (rd ra : Reg) (imm : Word) : Statement (.shrU rd ra imm) :=
  of_row (m := "SHR.U") (mask := 0xFFF00FFF) (bits := 0x21000000) 0 0 15 3 (by decide) rfl rfl (by simp)
theorem shrS (rd ra : Reg) (imm : Word) : Statement (.shrS rd ra imm) :=
  of_row (m := "SHR.S") (mask := 0xFFF00FFF) (bits := 0x21800000) 0 0 15 3 (by decide) rfl rfl (by simp)
theorem and (rd ra rb : Reg) : Statement (.and rd ra rb) :=
  of_row (m := "AND") (mask := 0xFFF000FF) (bits := 0x28000000) 0 0 0 3 (by decide) rfl rfl (by simp)
theorem or (rd ra rb : Reg) : Statement (.or rd ra rb) :=
  of_row (m := "OR") (mask := 0xFFF000FF) (bits := 0x29000000) 0 0 0 3 (by decide) rfl rfl (by simp)
theorem xor (rd ra rb : Reg) : Statement (.xor rd ra rb) :=
  of_row (m := "XOR") (mask := 0xFFF000FF) (bits := 0x2A000000) 0 0 0 3 (by decide) rfl rfl (by simp)
theorem not (rd ra : Reg) : Statement (.not rd ra) :=
  of_row (m := "NOT") (mask := 0xFFF00FFF) (bits := 0x2B000000) 0 0 15 3 (by decide) rfl rfl (by simp)
theorem ceq (ra rb : Reg) : Statement (.ceq ra rb) :=
  of_row (m := "CEQ") (mask := 0xFFFF00FF) (bits := 0x30000000) 15 0 0 3 (by decide) rfl rfl (by simp)
theorem cne (ra rb : Reg) : Statement (.cne ra rb) :=
  of_row (m := "CNE") (mask := 0xFFFF00FF) (bits := 0x31000000) 15 0 0 3 (by decide) rfl rfl (by simp)
theorem cltU (ra rb : Reg) : Statement (.cltU ra rb) :=
  of_row (m := "CLT.U") (mask := 0xFFFF00FF) (bits := 0x32000000) 15 0 0 3 (by decide) rfl rfl (by simp)
theorem cltS (ra rb : Reg) : Statement (.cltS ra rb) :=
  of_row (m := "CLT.S") (mask := 0xFFFF00FF) (bits := 0x32800000) 15 0 0 3 (by decide) rfl rfl (by simp)
theorem cgtU (ra rb : Reg) : Statement (.cgtU ra rb) :=
  of_row (m := "CGT.U") (mask := 0xFFFF00FF) (bits := 0x33000000) 15 0 0 3 (by decide) rfl rfl (by simp)
theorem cgtS (ra rb : Reg) : Statement (.cgtS ra rb) :=
  of_row (m := "CGT.S") (mask := 0xFFFF00FF) (bits := 0x33800000) 15 0 0 3 (by decide) rfl rfl (by simp)
theorem cleU (ra rb : Reg) : Statement (.cleU ra rb) :=
  of_row (m := "CLE.U") (mask := 0xFFFF00FF) (bits := 0x34000000) 15 0 0 3 (by decide) rfl rfl (by simp)
theorem cleS (ra rb : Reg) : Statement (.cleS ra rb) :=
  of_row (m := "CLE.S") (mask := 0xFFFF00FF) (bits := 0x34800000) 15 0 0 3 (by decide) rfl rfl (by simp)
theorem cgeU (ra rb : Reg) : Statement (.cgeU ra rb) :=
  of_row (m := "CGE.U") (mask := 0xFFFF00FF) (bits := 0x35000000) 15 0 0 3 (by decide) rfl rfl (by simp)
theorem cgeS (ra rb : Reg) : Statement (.cgeS ra rb) :=
  of_row (m := "CGE.S") (mask := 0xFFFF00FF) (bits := 0x35800000) 15 0 0 3 (by decide) rfl rfl (by simp)
theorem tz (ra : Reg) : Statement (.tz ra) :=
  of_row (m := "TZ") (mask := 0xFFFF0FFF) (bits := 0x38000000) 15 0 15 3 (by decide) rfl rfl (by simp)
theorem tbitU (ra : Reg) (imm : Word) : Statement (.tbitU ra imm) :=
  of_row (m := "TBIT.U") (mask := 0xFFFF0FFF) (bits := 0x39000000) 15 0 15 3 (by decide) rfl rfl (by simp)
theorem tbitS (ra : Reg) (imm : Word) : Statement (.tbitS ra imm) :=
  of_row (m := "TBIT.S") (mask := 0xFFFF0FFF) (bits := 0x39800000) 15 0 15 3 (by decide) rfl rfl (by simp)
theorem tmsb (ra : Reg) : Statement (.tmsb ra) :=
  of_row (m := "TMSB") (mask := 0xFFFF0FFF) (bits := 0x3A000000) 15 0 15 3 (by decide) rfl rfl (by simp)
theorem tlsb (ra : Reg) : Statement (.tlsb ra) :=
  of_row (m := "TLSB") (mask := 0xFFFF0FFF) (bits := 0x3B000000) 15 0 15 3 (by decide) rfl rfl (by simp)
theorem smsb (rd ra : Reg) : Statement (.smsb rd ra) :=
  of_row (m := "SMSB") (mask := 0xFFF00FFF) (bits := 0x3C000000) 0 0 15 3 (by decide) rfl rfl (by simp)
theorem mulU (rd ra rb : Reg) : Statement (.mulU rd ra rb) :=
  of_row (m := "MUL.U") (mask := 0xFFF000FF) (bits := 0x40000000) 0 0 0 3 (by decide) rfl rfl (by simp)
theorem mulS (rd ra rb : Reg) : Statement (.mulS rd ra rb) :=
  of_row (m := "MUL.S") (mask := 0xFFF000FF) (bits := 0x40800000) 0 0 0 3 (by decide) rfl rfl (by simp)
theorem muliU (rd ra : Reg) (imm : Word) : Statement (.muliU rd ra imm) :=
  of_row (m := "MULI.U") (mask := 0xFFF00FFF) (bits := 0x41000000) 0 0 15 3 (by decide) rfl rfl (by simp)
theorem muliS (rd ra : Reg) (imm : Word) : Statement (.muliS rd ra imm) :=
  of_row (m := "MULI.S") (mask := 0xFFF00FFF) (bits := 0x41800000) 0 0 15 3 (by decide) rfl rfl (by simp)
theorem divU (rd ra rb : Reg) : Statement (.divU rd ra rb) :=
  of_row (m := "DIV.U") (mask := 0xFFF000FF) (bits := 0x48000000) 0 0 0 3 (by decide) rfl rfl (by simp)
theorem divS (rd ra rb : Reg) : Statement (.divS rd ra rb) :=
  of_row (m := "DIV.S") (mask := 0xFFF000FF) (bits := 0x48800000) 0 0 0 3 (by decide) rfl rfl (by simp)
theorem diviU (rd ra : Reg) (imm : Word) : Statement (.diviU rd ra imm) :=
  of_row (m := "DIVI.U") (mask := 0xFFF00FFF) (bits := 0x49000000) 0 0 15 3 (by decide) rfl rfl (by simp)
theorem diviS (rd ra : Reg) (imm : Word) : Statement (.diviS rd ra imm) :=
  of_row (m := "DIVI.S") (mask := 0xFFF00FFF) (bits := 0x49800000) 0 0 15 3 (by decide) rfl rfl (by simp)
theorem sqrtU (rd ra : Reg) : Statement (.sqrtU rd ra) :=
  of_row (m := "SQRT.U") (mask := 0xFFF00FFF) (bits := 0x50000000) 0 0 15 3 (by decide) rfl rfl (by simp)
theorem sqrtS (rd ra : Reg) : Statement (.sqrtS rd ra) :=
  of_row (m := "SQRT.S") (mask := 0xFFF00FFF) (bits := 0x50800000) 0 0 15 3 (by decide) rfl rfl (by simp)

end Sys2Proof.Laws.EncodedWellFormed
end

