-- ==== Sys2Proof/Tests/Slice0.lean ====
section
/-! SUPPORT. Tests on fixed values, and for each statement that has hypotheses a state and operands that meet them. The
expected values are those of spec/95_test_vectors.md and spec/96_test_vectors_mul_div_sqrt.md (the table number stands
above each test) or worked out by hand from the rule named. -/

namespace Sys2Proof.Tests

open Sys2Proof Sys2Proof.Machine Sys2Proof.Safety

set_option Elab.async false

/-- A register's content written most significant word first, as the spec's tables write it. -/
def q (w3 w2 w1 w0 : Word) : Quad := ⟨w0, w1, w2, w3⟩

def zero : Quad := q 0 0 0 0
/-- What a register that the test does not set holds. -/
def junk : Quad := q 0xDEAD0004 0xDEAD0003 0xDEAD0002 0xDEAD0001
def minusOne : Quad := q 0xFFFFFFFF 0xFFFFFFFF 0xFFFFFFFF 0
def minQuad : Quad := q 0x80000000 0 0 0
def allOnes : Quad := q 0xFFFFFFFF 0xFFFFFFFF 0xFFFFFFFF 0xFFFFFFFF

/-- The state right after reset, the host about to give these inputs. -/
def withInputs (l : List HostInput) : State := { State.reset with inputs := l }

/-- Registers `x1`, `x2` and `x3` written. -/
def regs123 (a b c : Quad) : State := ((State.reset.writeX 1 a).writeX 2 b).writeX 3 c

/-- One step on the command `CW IW` with `x1 = a`, `x2 = b`: `x3`, STATUS and RDATA after it. -/
def stepOn (cw iw : Word) (a b : Quad) : Option (Quad × Status × Word) :=
  match step { regs123 a b junk with inputs := [.command ⟨cw, iw⟩] } with
  | .next t => some (t.x 3, t.status, t.rdata)
  | .fault _ => none
  | .refused _ => none

/-- The refusal a step answers, if it refuses. -/
def refusalOf (c : Command) : Option Refusal :=
  match step (withInputs [.command c]) with
  | .next _ => none
  | .fault _ => none
  | .refused r => some r

/-! ## Well-formedness: each clause of R37 is refused (30_encoding.md R37) -/

theorem test_wellFormed_add : Command.wellFormed ⟨0x10031200, 0⟩ = true := by decide +kernel
theorem test_illFormed_opcode_zero : Command.wellFormed ⟨0x00000000, 0⟩ = false := by decide +kernel
theorem test_illFormed_opcode_unassigned : Command.wellFormed ⟨0x60000000, 0⟩ = false := by decide +kernel
theorem test_illFormed_variant : Command.wellFormed ⟨0x10831200, 0⟩ = false := by decide +kernel
theorem test_illFormed_zero_high : Command.wellFormed ⟨0x10131200, 0⟩ = false := by decide +kernel
theorem test_illFormed_zero_low : Command.wellFormed ⟨0x10031204, 0⟩ = false := by decide +kernel
theorem test_illFormed_unused_rd : Command.wellFormed ⟨0x30011200, 0⟩ = false := by decide +kernel
theorem test_illFormed_unused_ra : Command.wellFormed ⟨0x02031000, 0⟩ = false := by decide +kernel
theorem test_illFormed_unused_rb : Command.wellFormed ⟨0x02030100, 0⟩ = false := by decide +kernel
theorem test_illFormed_word_index : Command.wellFormed ⟨0x10031201, 0⟩ = false := by decide +kernel

theorem test_refused_opcode : refusalOf ⟨0x60000000, 0⟩ = some (.reservedCommand .unassignedOpcode) := by decide +kernel
theorem test_refused_variant : refusalOf ⟨0x10831200, 0⟩ = some (.reservedCommand .variantBit) := by decide +kernel
theorem test_refused_zero_field : refusalOf ⟨0x10131200, 0⟩ = some (.reservedCommand .zeroField) := by decide +kernel
theorem test_refused_register : refusalOf ⟨0x02030100, 0⟩ = some (.reservedCommand .unusedRegister) := by
  decide +kernel
theorem test_refused_word_index : refusalOf ⟨0x10031201, 0⟩ = some (.reservedCommand .wordIndex) := by decide +kernel

/-! ## Decoding: for each row of spec/opcode_table.json its match word with rd = 13, ra = 6, rb = 11, k = 2 in the fields
that its format has (30_encoding.md R33, R34), IW = 0x89ABCDEF -/

theorem test_decode_mov : decode ⟨0x010D6000, 0x89ABCDEF⟩ = .command (.mov 13 6) := by decide +kernel
theorem test_decode_mkz : decode ⟨0x020D0000, 0x89ABCDEF⟩ = .command (.mkz 13) := by decide +kernel
theorem test_decode_wrw : decode ⟨0x030D0002, 0x89ABCDEF⟩ = .command (.wrw 13 2 0x89ABCDEF) := by decide +kernel
theorem test_decode_rdw : decode ⟨0x04006002, 0x89ABCDEF⟩ = .command (.rdw 6 2) := by decide +kernel
theorem test_decode_ldiU : decode ⟨0x050D0000, 0x89ABCDEF⟩ = .command (.ldiU 13 0x89ABCDEF) := by decide +kernel
theorem test_decode_ldiS : decode ⟨0x058D0000, 0x89ABCDEF⟩ = .command (.ldiS 13 0x89ABCDEF) := by decide +kernel
theorem test_decode_toiU : decode ⟨0x06006000, 0x89ABCDEF⟩ = .command (.toiU 6) := by decide +kernel
theorem test_decode_toiS : decode ⟨0x06806000, 0x89ABCDEF⟩ = .command (.toiS 6) := by decide +kernel
theorem test_decode_rds : decode ⟨0x07000000, 0x89ABCDEF⟩ = .command .rds := by decide +kernel
theorem test_decode_add : decode ⟨0x100D6B00, 0x89ABCDEF⟩ = .command (.add 13 6 11) := by decide +kernel
theorem test_decode_sub : decode ⟨0x110D6B00, 0x89ABCDEF⟩ = .command (.sub 13 6 11) := by decide +kernel
theorem test_decode_addiU : decode ⟨0x120D6000, 0x89ABCDEF⟩ = .command (.addiU 13 6 0x89ABCDEF) := by decide +kernel
theorem test_decode_addiS : decode ⟨0x128D6000, 0x89ABCDEF⟩ = .command (.addiS 13 6 0x89ABCDEF) := by decide +kernel
theorem test_decode_subiU : decode ⟨0x130D6000, 0x89ABCDEF⟩ = .command (.subiU 13 6 0x89ABCDEF) := by decide +kernel
theorem test_decode_subiS : decode ⟨0x138D6000, 0x89ABCDEF⟩ = .command (.subiS 13 6 0x89ABCDEF) := by decide +kernel
theorem test_decode_neg : decode ⟨0x140D6000, 0x89ABCDEF⟩ = .command (.neg 13 6) := by decide +kernel
theorem test_decode_inc : decode ⟨0x150D6000, 0x89ABCDEF⟩ = .command (.inc 13 6) := by decide +kernel
theorem test_decode_dec : decode ⟨0x160D6000, 0x89ABCDEF⟩ = .command (.dec 13 6) := by decide +kernel
theorem test_decode_shl : decode ⟨0x200D6000, 0x89ABCDEF⟩ = .command (.shl 13 6 0x89ABCDEF) := by decide +kernel
theorem test_decode_shrU : decode ⟨0x210D6000, 0x89ABCDEF⟩ = .command (.shrU 13 6 0x89ABCDEF) := by decide +kernel
theorem test_decode_shrS : decode ⟨0x218D6000, 0x89ABCDEF⟩ = .command (.shrS 13 6 0x89ABCDEF) := by decide +kernel
theorem test_decode_and : decode ⟨0x280D6B00, 0x89ABCDEF⟩ = .command (.and 13 6 11) := by decide +kernel
theorem test_decode_or : decode ⟨0x290D6B00, 0x89ABCDEF⟩ = .command (.or 13 6 11) := by decide +kernel
theorem test_decode_xor : decode ⟨0x2A0D6B00, 0x89ABCDEF⟩ = .command (.xor 13 6 11) := by decide +kernel
theorem test_decode_not : decode ⟨0x2B0D6000, 0x89ABCDEF⟩ = .command (.not 13 6) := by decide +kernel
theorem test_decode_ceq : decode ⟨0x30006B00, 0x89ABCDEF⟩ = .command (.ceq 6 11) := by decide +kernel
theorem test_decode_cne : decode ⟨0x31006B00, 0x89ABCDEF⟩ = .command (.cne 6 11) := by decide +kernel
theorem test_decode_cltU : decode ⟨0x32006B00, 0x89ABCDEF⟩ = .command (.cltU 6 11) := by decide +kernel
theorem test_decode_cltS : decode ⟨0x32806B00, 0x89ABCDEF⟩ = .command (.cltS 6 11) := by decide +kernel
theorem test_decode_cgtU : decode ⟨0x33006B00, 0x89ABCDEF⟩ = .command (.cgtU 6 11) := by decide +kernel
theorem test_decode_cgtS : decode ⟨0x33806B00, 0x89ABCDEF⟩ = .command (.cgtS 6 11) := by decide +kernel
theorem test_decode_cleU : decode ⟨0x34006B00, 0x89ABCDEF⟩ = .command (.cleU 6 11) := by decide +kernel
theorem test_decode_cleS : decode ⟨0x34806B00, 0x89ABCDEF⟩ = .command (.cleS 6 11) := by decide +kernel
theorem test_decode_cgeU : decode ⟨0x35006B00, 0x89ABCDEF⟩ = .command (.cgeU 6 11) := by decide +kernel
theorem test_decode_cgeS : decode ⟨0x35806B00, 0x89ABCDEF⟩ = .command (.cgeS 6 11) := by decide +kernel
theorem test_decode_tz : decode ⟨0x38006000, 0x89ABCDEF⟩ = .command (.tz 6) := by decide +kernel
theorem test_decode_tbitU : decode ⟨0x39006000, 0x89ABCDEF⟩ = .command (.tbitU 6 0x89ABCDEF) := by decide +kernel
theorem test_decode_tbitS : decode ⟨0x39806000, 0x89ABCDEF⟩ = .command (.tbitS 6 0x89ABCDEF) := by decide +kernel
theorem test_decode_tmsb : decode ⟨0x3A006000, 0x89ABCDEF⟩ = .command (.tmsb 6) := by decide +kernel
theorem test_decode_tlsb : decode ⟨0x3B006000, 0x89ABCDEF⟩ = .command (.tlsb 6) := by decide +kernel
theorem test_decode_smsb : decode ⟨0x3C0D6000, 0x89ABCDEF⟩ = .command (.smsb 13 6) := by decide +kernel
theorem test_decode_mulU : decode ⟨0x400D6B00, 0x89ABCDEF⟩ = .command (.mulU 13 6 11) := by decide +kernel
theorem test_decode_mulS : decode ⟨0x408D6B00, 0x89ABCDEF⟩ = .command (.mulS 13 6 11) := by decide +kernel
theorem test_decode_muliU : decode ⟨0x410D6000, 0x89ABCDEF⟩ = .command (.muliU 13 6 0x89ABCDEF) := by decide +kernel
theorem test_decode_muliS : decode ⟨0x418D6000, 0x89ABCDEF⟩ = .command (.muliS 13 6 0x89ABCDEF) := by decide +kernel
theorem test_decode_divU : decode ⟨0x480D6B00, 0x89ABCDEF⟩ = .command (.divU 13 6 11) := by decide +kernel
theorem test_decode_divS : decode ⟨0x488D6B00, 0x89ABCDEF⟩ = .command (.divS 13 6 11) := by decide +kernel
theorem test_decode_diviU : decode ⟨0x490D6000, 0x89ABCDEF⟩ = .command (.diviU 13 6 0x89ABCDEF) := by decide +kernel
theorem test_decode_diviS : decode ⟨0x498D6000, 0x89ABCDEF⟩ = .command (.diviS 13 6 0x89ABCDEF) := by decide +kernel
theorem test_decode_sqrtU : decode ⟨0x500D6000, 0x89ABCDEF⟩ = .command (.sqrtU 13 6) := by decide +kernel
theorem test_decode_sqrtS : decode ⟨0x508D6000, 0x89ABCDEF⟩ = .command (.sqrtS 13 6) := by decide +kernel

/-! ## One step of each command: tables 2.1 to 2.9 -/

-- 95_test_vectors.md, table 2.9
theorem test_mov_copies : stepOn 0x01031000 0 (q 0xFFFFFFFF 0xFFFFFFFF 0xFFFFFFFB 0) junk =
    some ((q 0xFFFFFFFF 0xFFFFFFFF 0xFFFFFFFB 0), ⟨false, false⟩, 0) := by decide +kernel
theorem test_mkz_clears : stepOn 0x02030000 0 junk junk =
    some (zero, ⟨false, false⟩, 0) := by decide +kernel
theorem test_rdw_word_1 : stepOn 0x04001001 0 (q 0 0x00000001 0xDCD65000 0x80000000) junk =
    some (junk, ⟨false, false⟩, 0xDCD65000) := by decide +kernel
theorem test_rdw_word_3 : stepOn 0x04001003 0 (q 0 0x00000001 0xDCD65000 0x80000000) junk =
    some (junk, ⟨false, false⟩, 0x00000000) := by decide +kernel
theorem test_ldiu_unsigned_reading : stepOn 0x05030000 0xFFFFFFFB junk junk =
    some ((q 0 0 0xFFFFFFFB 0), ⟨false, false⟩, 0) := by decide +kernel
theorem test_ldis_signed_reading : stepOn 0x05830000 0xFFFFFFFB junk junk =
    some ((q 0xFFFFFFFF 0xFFFFFFFF 0xFFFFFFFB 0), ⟨false, false⟩, 0) := by decide +kernel
theorem test_ldis_most_negative : stepOn 0x05830000 0x80000000 junk junk =
    some ((q 0xFFFFFFFF 0xFFFFFFFF 0x80000000 0), ⟨false, false⟩, 0) := by decide +kernel
theorem test_toiu_does_not_fit : stepOn 0x06001000 0 (q 0 0x00000001 0xDCD65000 0x80000000) junk =
    some (junk, ⟨false, false⟩, 0xDCD65000) := by decide +kernel
theorem test_toiu_word_1 : stepOn 0x06001000 0 (q 0xFFFFFFFF 0xFFFFFFFF 0xFFFFFFFD 0x80000000) junk =
    some (junk, ⟨false, false⟩, 0xFFFFFFFD) := by decide +kernel
theorem test_tois_toward_zero : stepOn 0x06801000 0 (q 0xFFFFFFFF 0xFFFFFFFF 0xFFFFFFFD 0x80000000) junk =
    some (junk, ⟨false, false⟩, 0xFFFFFFFE) := by decide +kernel
theorem test_tois_does_not_fit : stepOn 0x06801000 0 (q 0x80000000 0 0 0) junk =
    some (junk, ⟨false, false⟩, 0x00000000) := by decide +kernel
-- 95_test_vectors.md, table 2.1
theorem test_add_carry_out : stepOn 0x10031200 0 (q 0 0 0x00000005 0) (q 0xFFFFFFFF 0xFFFFFFFF 0xFFFFFFFB 0) =
    some (zero, ⟨true, false⟩, 0) := by decide +kernel
theorem test_add_signed_overflow_no_carry : stepOn 0x10031200 0 (q 0x7FFFFFFF 0xFFFFFFFF 0xFFFFFFFF 0xFFFFFFFF) (q 0 0 0 0x00000001) =
    some ((q 0x80000000 0 0 0), ⟨false, false⟩, 0) := by decide +kernel
theorem test_sub_borrow : stepOn 0x11031200 0 zero (q 0 0 0 0x00000001) =
    some ((q 0xFFFFFFFF 0xFFFFFFFF 0xFFFFFFFF 0xFFFFFFFF), ⟨true, false⟩, 0) := by decide +kernel
theorem test_sub_signed_overflow_no_borrow : stepOn 0x11031200 0 (q 0x80000000 0 0 0) (q 0 0 0 0x00000001) =
    some ((q 0x7FFFFFFF 0xFFFFFFFF 0xFFFFFFFF 0xFFFFFFFF), ⟨false, false⟩, 0) := by decide +kernel
theorem test_addiu_carry_out : stepOn 0x12031000 0x00000001 (q 0xFFFFFFFF 0xFFFFFFFF 0xFFFFFFFF 0x80000000) junk =
    some ((q 0 0 0 0x80000000), ⟨true, false⟩, 0) := by decide +kernel
theorem test_addiu_unsigned_reading : stepOn 0x12031000 0xFFFFFFFB (q 0 0 0x00000002 0x80000000) junk =
    some ((q 0 0 0xFFFFFFFD 0x80000000), ⟨false, false⟩, 0) := by decide +kernel
theorem test_addis_signed_reading : stepOn 0x12831000 0xFFFFFFFB (q 0 0 0x00000002 0x80000000) junk =
    some ((q 0xFFFFFFFF 0xFFFFFFFF 0xFFFFFFFD 0x80000000), ⟨false, false⟩, 0) := by decide +kernel
theorem test_addis_most_negative : stepOn 0x12831000 0x80000000 zero junk =
    some ((q 0xFFFFFFFF 0xFFFFFFFF 0x80000000 0), ⟨false, false⟩, 0) := by decide +kernel
theorem test_subiu_borrow : stepOn 0x13031000 0x00000001 (q 0 0 0 0x80000000) junk =
    some ((q 0xFFFFFFFF 0xFFFFFFFF 0xFFFFFFFF 0x80000000), ⟨true, false⟩, 0) := by decide +kernel
theorem test_subiu_fraction_kept : stepOn 0x13031000 0x00000003 (q 0 0 0x00000002 0x80000000) junk =
    some ((q 0xFFFFFFFF 0xFFFFFFFF 0xFFFFFFFF 0x80000000), ⟨true, false⟩, 0) := by decide +kernel
theorem test_subis_pattern_borrow : stepOn 0x13831000 0xFFFFFFFB (q 0 0 0x00000002 0x80000000) junk =
    some ((q 0 0 0x00000007 0x80000000), ⟨true, false⟩, 0) := by decide +kernel
theorem test_subis_five : stepOn 0x13831000 0x00000005 (q 0 0 0x00000002 0x80000000) junk =
    some ((q 0xFFFFFFFF 0xFFFFFFFF 0xFFFFFFFD 0x80000000), ⟨true, false⟩, 0) := by decide +kernel
theorem test_neg_five : stepOn 0x14031000 0 (q 0 0 0x00000005 0) junk =
    some ((q 0xFFFFFFFF 0xFFFFFFFF 0xFFFFFFFB 0), ⟨false, false⟩, 0) := by decide +kernel
theorem test_neg_min : stepOn 0x14031000 0 (q 0x80000000 0 0 0) junk =
    some ((q 0x80000000 0 0 0), ⟨false, false⟩, 0) := by decide +kernel
theorem test_inc_one : stepOn 0x15031000 0 (q 0 0 0x00000002 0x80000000) junk =
    some ((q 0 0 0x00000003 0x80000000), ⟨false, false⟩, 0) := by decide +kernel
theorem test_inc_carry_out : stepOn 0x15031000 0 (q 0xFFFFFFFF 0xFFFFFFFF 0xFFFFFFFF 0x80000000) junk =
    some ((q 0 0 0 0x80000000), ⟨true, false⟩, 0) := by decide +kernel
theorem test_dec_borrow : stepOn 0x16031000 0 zero junk =
    some ((q 0xFFFFFFFF 0xFFFFFFFF 0xFFFFFFFF 0), ⟨true, false⟩, 0) := by decide +kernel
theorem test_dec_min : stepOn 0x16031000 0 (q 0x80000000 0 0 0) junk =
    some ((q 0x7FFFFFFF 0xFFFFFFFF 0xFFFFFFFF 0), ⟨false, false⟩, 0) := by decide +kernel
-- 95_test_vectors.md, table 2.2
theorem test_shl_three_passes : stepOn 0x20031000 0x0000002D (q 0x01234567 0x89ABCDEF 0x0FEDCBA9 0x87654321) junk =
    some ((q 0x79BDE1FD 0xB97530EC 0xA8642000 0), ⟨false, false⟩, 0) := by decide +kernel
theorem test_shl_largest_count : stepOn 0x20031000 0xFFFFFFFF (q 0xFFFFFFFF 0xFFFFFFFF 0xFFFFFFFF 0xFFFFFFFF) junk =
    some (zero, ⟨false, false⟩, 0) := by decide +kernel
theorem test_shru_three_passes : stepOn 0x21031000 0x0000002D (q 0xF1234567 0x89ABCDEF 0x0FEDCBA9 0x87654321) junk =
    some ((q 0 0x0007891A 0x2B3C4D5E 0x6F787F6E), ⟨false, false⟩, 0) := by decide +kernel
theorem test_shru_width : stepOn 0x21031000 0x00000080 (q 0xF1234567 0x89ABCDEF 0x0FEDCBA9 0x87654321) junk =
    some (zero, ⟨false, false⟩, 0) := by decide +kernel
theorem test_shrs_three_passes : stepOn 0x21831000 0x0000002D (q 0xF1234567 0x89ABCDEF 0x0FEDCBA9 0x87654321) junk =
    some ((q 0xFFFFFFFF 0xFFFF891A 0x2B3C4D5E 0x6F787F6E), ⟨false, false⟩, 0) := by decide +kernel
theorem test_shrs_width : stepOn 0x21831000 0x00000080 (q 0xF1234567 0x89ABCDEF 0x0FEDCBA9 0x87654321) junk =
    some ((q 0xFFFFFFFF 0xFFFFFFFF 0xFFFFFFFF 0xFFFFFFFF), ⟨false, false⟩, 0) := by decide +kernel
-- 95_test_vectors.md, table 2.3
theorem test_and_mask : stepOn 0x28031200 0 (q 0x01234567 0x89ABCDEF 0x0FEDCBA9 0x87654321) (q 0xFFFFFFFF 0xFFFFFFFF 0xFFFFFFFF 0) =
    some ((q 0x01234567 0x89ABCDEF 0x0FEDCBA9 0), ⟨false, false⟩, 0) := by decide +kernel
theorem test_or_union : stepOn 0x29031200 0 (q 0x01234567 0x89ABCDEF 0x0FEDCBA9 0x87654321) (q 0xF1234567 0x89ABCDEF 0x0FEDCBA9 0x87654321) =
    some ((q 0xF1234567 0x89ABCDEF 0x0FEDCBA9 0x87654321), ⟨false, false⟩, 0) := by decide +kernel
theorem test_xor_difference : stepOn 0x2A031200 0 (q 0x01234567 0x89ABCDEF 0x0FEDCBA9 0x87654321) (q 0xF1234567 0x89ABCDEF 0x0FEDCBA9 0x87654321) =
    some ((q 0xF0000000 0 0 0), ⟨false, false⟩, 0) := by decide +kernel
theorem test_xor_same_register : stepOn 0x2A031100 0 (q 0x01234567 0x89ABCDEF 0x0FEDCBA9 0x87654321) junk =
    some (zero, ⟨false, false⟩, 0) := by decide +kernel
theorem test_not_complement : stepOn 0x2B031000 0 (q 0x01234567 0x89ABCDEF 0x0FEDCBA9 0x87654321) junk =
    some ((q 0xFEDCBA98 0x76543210 0xF0123456 0x789ABCDE), ⟨false, false⟩, 0) := by decide +kernel
-- 95_test_vectors.md, table 2.4
theorem test_ceq_signs_differ : stepOn 0x30001200 0 (q 0xFFFFFFFF 0xFFFFFFFF 0xFFFFFFFB 0) (q 0 0 0x00000005 0) =
    some (junk, ⟨false, false⟩, 0) := by decide +kernel
theorem test_ceq_equal : stepOn 0x30001200 0 (q 0xFFFFFFFF 0xFFFFFFFF 0xFFFFFFFB 0) (q 0xFFFFFFFF 0xFFFFFFFF 0xFFFFFFFB 0) =
    some (junk, ⟨false, true⟩, 0) := by decide +kernel
theorem test_cne_signs_differ : stepOn 0x31001200 0 (q 0xFFFFFFFF 0xFFFFFFFF 0xFFFFFFFB 0) (q 0 0 0x00000005 0) =
    some (junk, ⟨false, true⟩, 0) := by decide +kernel
theorem test_cne_equal : stepOn 0x31001200 0 (q 0xFFFFFFFF 0xFFFFFFFF 0xFFFFFFFB 0) (q 0xFFFFFFFF 0xFFFFFFFF 0xFFFFFFFB 0) =
    some (junk, ⟨false, false⟩, 0) := by decide +kernel
theorem test_cltu_signs_differ : stepOn 0x32001200 0 (q 0xFFFFFFFF 0xFFFFFFFF 0xFFFFFFFB 0) (q 0 0 0x00000005 0) =
    some (junk, ⟨false, false⟩, 0) := by decide +kernel
theorem test_cltu_equal : stepOn 0x32001200 0 (q 0xFFFFFFFF 0xFFFFFFFF 0xFFFFFFFB 0) (q 0xFFFFFFFF 0xFFFFFFFF 0xFFFFFFFB 0) =
    some (junk, ⟨false, false⟩, 0) := by decide +kernel
theorem test_clts_signs_differ : stepOn 0x32801200 0 (q 0xFFFFFFFF 0xFFFFFFFF 0xFFFFFFFB 0) (q 0 0 0x00000005 0) =
    some (junk, ⟨false, true⟩, 0) := by decide +kernel
theorem test_clts_equal : stepOn 0x32801200 0 (q 0xFFFFFFFF 0xFFFFFFFF 0xFFFFFFFB 0) (q 0xFFFFFFFF 0xFFFFFFFF 0xFFFFFFFB 0) =
    some (junk, ⟨false, false⟩, 0) := by decide +kernel
theorem test_cgtu_signs_differ : stepOn 0x33001200 0 (q 0xFFFFFFFF 0xFFFFFFFF 0xFFFFFFFB 0) (q 0 0 0x00000005 0) =
    some (junk, ⟨false, true⟩, 0) := by decide +kernel
theorem test_cgtu_equal : stepOn 0x33001200 0 (q 0xFFFFFFFF 0xFFFFFFFF 0xFFFFFFFB 0) (q 0xFFFFFFFF 0xFFFFFFFF 0xFFFFFFFB 0) =
    some (junk, ⟨false, false⟩, 0) := by decide +kernel
theorem test_cgts_signs_differ : stepOn 0x33801200 0 (q 0xFFFFFFFF 0xFFFFFFFF 0xFFFFFFFB 0) (q 0 0 0x00000005 0) =
    some (junk, ⟨false, false⟩, 0) := by decide +kernel
theorem test_cgts_equal : stepOn 0x33801200 0 (q 0xFFFFFFFF 0xFFFFFFFF 0xFFFFFFFB 0) (q 0xFFFFFFFF 0xFFFFFFFF 0xFFFFFFFB 0) =
    some (junk, ⟨false, false⟩, 0) := by decide +kernel
theorem test_cleu_signs_differ : stepOn 0x34001200 0 (q 0xFFFFFFFF 0xFFFFFFFF 0xFFFFFFFB 0) (q 0 0 0x00000005 0) =
    some (junk, ⟨false, false⟩, 0) := by decide +kernel
theorem test_cleu_equal : stepOn 0x34001200 0 (q 0xFFFFFFFF 0xFFFFFFFF 0xFFFFFFFB 0) (q 0xFFFFFFFF 0xFFFFFFFF 0xFFFFFFFB 0) =
    some (junk, ⟨false, true⟩, 0) := by decide +kernel
theorem test_cles_signs_differ : stepOn 0x34801200 0 (q 0xFFFFFFFF 0xFFFFFFFF 0xFFFFFFFB 0) (q 0 0 0x00000005 0) =
    some (junk, ⟨false, true⟩, 0) := by decide +kernel
theorem test_cles_equal : stepOn 0x34801200 0 (q 0xFFFFFFFF 0xFFFFFFFF 0xFFFFFFFB 0) (q 0xFFFFFFFF 0xFFFFFFFF 0xFFFFFFFB 0) =
    some (junk, ⟨false, true⟩, 0) := by decide +kernel
theorem test_cgeu_signs_differ : stepOn 0x35001200 0 (q 0xFFFFFFFF 0xFFFFFFFF 0xFFFFFFFB 0) (q 0 0 0x00000005 0) =
    some (junk, ⟨false, true⟩, 0) := by decide +kernel
theorem test_cgeu_equal : stepOn 0x35001200 0 (q 0xFFFFFFFF 0xFFFFFFFF 0xFFFFFFFB 0) (q 0xFFFFFFFF 0xFFFFFFFF 0xFFFFFFFB 0) =
    some (junk, ⟨false, true⟩, 0) := by decide +kernel
theorem test_cges_signs_differ : stepOn 0x35801200 0 (q 0xFFFFFFFF 0xFFFFFFFF 0xFFFFFFFB 0) (q 0 0 0x00000005 0) =
    some (junk, ⟨false, false⟩, 0) := by decide +kernel
theorem test_cges_equal : stepOn 0x35801200 0 (q 0xFFFFFFFF 0xFFFFFFFF 0xFFFFFFFB 0) (q 0xFFFFFFFF 0xFFFFFFFF 0xFFFFFFFB 0) =
    some (junk, ⟨false, true⟩, 0) := by decide +kernel
-- 95_test_vectors.md, table 2.5
theorem test_tz_zero : stepOn 0x38001000 0 zero junk =
    some (junk, ⟨false, true⟩, 0) := by decide +kernel
theorem test_tz_top_bit_only : stepOn 0x38001000 0 (q 0x80000000 0 0 0) junk =
    some (junk, ⟨false, false⟩, 0) := by decide +kernel
theorem test_tbitu_top_bit : stepOn 0x39001000 0x0000007F (q 0xFFFFFFFF 0xFFFFFFFF 0xFFFFFFFB 0) junk =
    some (junk, ⟨false, true⟩, 0) := by decide +kernel
theorem test_tbitu_above_the_top : stepOn 0x39001000 0x00000080 (q 0xFFFFFFFF 0xFFFFFFFF 0xFFFFFFFB 0) junk =
    some (junk, ⟨false, false⟩, 0) := by decide +kernel
theorem test_tbits_above_the_top : stepOn 0x39801000 0x00000080 (q 0xFFFFFFFF 0xFFFFFFFF 0xFFFFFFFB 0) junk =
    some (junk, ⟨false, true⟩, 0) := by decide +kernel
theorem test_tbits_below_zero : stepOn 0x39801000 0xFFFFFFFF (q 0xFFFFFFFF 0xFFFFFFFF 0xFFFFFFFF 0xFFFFFFFF) junk =
    some (junk, ⟨false, false⟩, 0) := by decide +kernel
theorem test_tmsb_negative : stepOn 0x3A001000 0 (q 0xFFFFFFFF 0xFFFFFFFF 0xFFFFFFFB 0) junk =
    some (junk, ⟨false, true⟩, 0) := by decide +kernel
theorem test_tmsb_largest : stepOn 0x3A001000 0 (q 0x7FFFFFFF 0xFFFFFFFF 0xFFFFFFFF 0xFFFFFFFF) junk =
    some (junk, ⟨false, false⟩, 0) := by decide +kernel
theorem test_tlsb_odd : stepOn 0x3B001000 0 (q 0 0 0 0x00000001) junk =
    some (junk, ⟨false, true⟩, 0) := by decide +kernel
theorem test_tlsb_even : stepOn 0x3B001000 0 (q 0 0 0x00000005 0) junk =
    some (junk, ⟨false, false⟩, 0) := by decide +kernel
theorem test_smsb_sets : stepOn 0x3C031000 0 (q 0 0 0x00000005 0) junk =
    some ((q 0x80000000 0 0x00000005 0), ⟨false, false⟩, 0) := by decide +kernel
-- 96_test_vectors_mul_div_sqrt.md, table 2.6
theorem test_mulu_scratch_word_4 : stepOn 0x40031200 0 (q 0 0x00000001 0xDCD65000 0x80000000) (q 0 0x00000002 0x18711A00 0x80000000) =
    some ((q 0x00000003 0xE7336289 0x0EC3B500 0x40000000), ⟨false, false⟩, 0) := by decide +kernel
theorem test_mulu_unsigned_reading : stepOn 0x40031200 0 (q 0xFFFFFFFF 0xFFFFFFFF 0xFFFFFFFF 0xFFFFFFFF) (q 0 0 0 0x80000000) =
    some ((q 0x7FFFFFFF 0xFFFFFFFF 0xFFFFFFFF 0xFFFFFFFF), ⟨false, false⟩, 0) := by decide +kernel
theorem test_muls_rounds_down : stepOn 0x40831200 0 (q 0xFFFFFFFF 0xFFFFFFFF 0xFFFFFFFF 0xFFFFFFFF) (q 0 0 0 0x80000000) =
    some ((q 0xFFFFFFFF 0xFFFFFFFF 0xFFFFFFFF 0xFFFFFFFF), ⟨false, false⟩, 0) := by decide +kernel
theorem test_muls_overflow : stepOn 0x40831200 0 (q 0x80000000 0 0 0) (q 0x80000000 0 0 0) =
    some (zero, ⟨false, false⟩, 0) := by decide +kernel
theorem test_muliu_unsigned_reading : stepOn 0x41031000 0xFFFFFFFD (q 0 0 0x00000002 0x80000000) junk =
    some ((q 0 0x00000002 0x7FFFFFF8 0x80000000), ⟨false, false⟩, 0) := by decide +kernel
theorem test_muliu_overflow : stepOn 0x41031000 0x00000002 (q 0x80000000 0 0 0) junk =
    some (zero, ⟨false, false⟩, 0) := by decide +kernel
theorem test_mulis_signed_reading : stepOn 0x41831000 0xFFFFFFFD (q 0 0 0x00000002 0x80000000) junk =
    some ((q 0xFFFFFFFF 0xFFFFFFFF 0xFFFFFFF8 0x80000000), ⟨false, false⟩, 0) := by decide +kernel
theorem test_mulis_most_negative : stepOn 0x41831000 0x80000000 (q 0 0 0x00000001 0) junk =
    some ((q 0xFFFFFFFF 0xFFFFFFFF 0x80000000 0), ⟨false, false⟩, 0) := by decide +kernel
-- 96_test_vectors_mul_div_sqrt.md, table 2.7
theorem test_divu_lost_bit : stepOn 0x48031200 0 (q 0xFFFFFFFF 0xFFFFFFFF 0xFFFFFFFF 0xFFFFFFFF) (q 0 0 0x00000001 0) =
    some ((q 0xFFFFFFFF 0xFFFFFFFF 0xFFFFFFFF 0xFFFFFFFF), ⟨false, false⟩, 0) := by decide +kernel
theorem test_divu_by_zero : stepOn 0x48031200 0 (q 0 0 0x00000007 0x80000000) zero =
    some (zero, ⟨false, false⟩, 0) := by decide +kernel
theorem test_divs_toward_zero : stepOn 0x48831200 0 (q 0xFFFFFFFF 0xFFFFFFFF 0xFFFFFFFF 0) (q 0 0 0x00000003 0) =
    some ((q 0xFFFFFFFF 0xFFFFFFFF 0xFFFFFFFF 0xAAAAAAAB), ⟨false, false⟩, 0) := by decide +kernel
theorem test_divs_most_negative : stepOn 0x48831200 0 (q 0x80000000 0 0 0) (q 0 0 0x00000002 0) =
    some ((q 0xC0000000 0 0 0), ⟨false, false⟩, 0) := by decide +kernel
theorem test_diviu_unsigned_reading : stepOn 0x49031000 0xFFFFFFFD (q 0 0 0x00000007 0x80000000) junk =
    some ((q 0 0 0 0x00000007), ⟨false, false⟩, 0) := by decide +kernel
theorem test_diviu_by_zero : stepOn 0x49031000 0 (q 0 0 0x00000007 0x80000000) junk =
    some (zero, ⟨false, false⟩, 0) := by decide +kernel
theorem test_divis_signed_reading : stepOn 0x49831000 0xFFFFFFFE (q 0 0 0x00000007 0x80000000) junk =
    some ((q 0xFFFFFFFF 0xFFFFFFFF 0xFFFFFFFC 0x40000000), ⟨false, false⟩, 0) := by decide +kernel
theorem test_divis_toward_zero : stepOn 0x49831000 0x00000002 (q 0xFFFFFFFF 0xFFFFFFFF 0xFFFFFFFF 0xFFFFFFFF) junk =
    some (zero, ⟨false, false⟩, 0) := by decide +kernel
-- 96_test_vectors_mul_div_sqrt.md, table 2.8
theorem test_sqrtu_two : stepOn 0x50031000 0 (q 0 0 0x00000002 0) junk =
    some ((q 0 0 0x00000001 0x6A09E667), ⟨false, false⟩, 0) := by decide +kernel
theorem test_sqrtu_low_bit_dropped : stepOn 0x50031000 0 (q 0 0 0 0x00000003) junk =
    some ((q 0 0 0 0x00016A09), ⟨false, false⟩, 0) := by decide +kernel
theorem test_sqrts_scenario_s6 : stepOn 0x50831000 0 (q 0 0 0x5F5E1000 0) junk =
    some ((q 0 0 0x00009C40 0), ⟨false, false⟩, 0) := by decide +kernel
theorem test_sqrts_negative : stepOn 0x50831000 0 (q 0x80000000 0 0 0) junk =
    some (zero, ⟨false, false⟩, 0) := by decide +kernel

-- 95_test_vectors.md, programs 4 and 2 (WRW, RDS).
theorem test_wrw_one_word : stepOn 0x03030002 1 zero zero =
    some (q 0xDEAD0004 1 0xDEAD0002 0xDEAD0001, ⟨false, false⟩, 0) := by decide +kernel

theorem test_rds_both_flags :
    exec .rds (((State.reset).setC true).setT true) =
      .next ((((State.reset).setC true).setT true).setRdata 3) := rfl

/-! ## The fixed functions of the host -/

-- 95_test_vectors.md, table 2.1: `ADDI.S x3, x1, #-5` is 12831000 FFFFFFFB.
theorem test_decodeTableWord_addiS :
    decodeTableWord 64 0xFFFFFFFB12831000 = some (.addiS 3 1 0xFFFFFFFB) := by decide +kernel
theorem test_decodeTableWord_short :
    decodeTableWord 32 0xFFFFFFFB12831000 = some (.addiS 3 1 0) := by decide +kernel
theorem test_decodeTableWord_reserved : decodeTableWord 64 0x10831200 = none := by decide +kernel

/-- The step after `withFetchWord` runs that very command as the first after reset: `LDI.U x0, #4` (program 1). -/
theorem test_withFetchWord :
    (match step (State.reset.withFetchWord 64 0x0000000405000000) with
     | .next t => some (t.x 0, t.isWritten 0 3, t.rspValid, t.inputs)
     | .fault _ => none
     | .refused _ => none) = some (q 0 0 4 0, true, true, []) := by decide +kernel

/-- R41: `NOP`. -/
theorem test_pseudo_nop : expandPseudo .nop = some [.mov 0 0] := by decide +kernel

/-! ## Witnesses: for each statement with hypotheses, a state and operands that meet them -/

/-- Whether a result is a next state. -/
def goesOn : Result → Bool
  | .next _ => true
  | .fault _ => false
  | .refused _ => false

/-- `x1` = 5.0, `x2` = −5.0 (scenario S1). -/
def s1 : State := regs123 (q 0 0 5 0) (q 0xFFFFFFFF 0xFFFFFFFF 0xFFFFFFFB 0) junk

theorem witness_CommandIsItsTableRow :
    (⟨"ADD", 0xFFF000FF, 0x10000000⟩ : OpcodeRow) ∈ opcodeTable ∧ decode ⟨0x10031200, 0⟩ = .command (.add 3 1 2) := by
  decide +kernel

theorem witness_EncodeInvertsDecode :
    decode ⟨0x12831000, 0xFFFFFFFB⟩ = .command (.addiS 3 1 0xFFFFFFFB) ∧
      (Instr.addiS 3 1 0xFFFFFFFB).usesImmediate = true := by decide +kernel

theorem witness_UnusedImmediateIsIgnored :
    decode ⟨0x10031200, 7⟩ = .command (.add 3 1 2) ∧ (Instr.add 3 1 2).usesImmediate = false := by decide +kernel

/-- Each clause of R37 on a presented word, and a word that none of them names. -/
theorem witness_ReservedWordsAreRefused :
    (∀ c : Command, ∃ s : State, s.inputs = .command c :: []) ∧
    ReservedByR37 ⟨0x60000000, 0⟩ ∧ ReservedByR37 ⟨0x10831200, 0⟩ ∧ ReservedByR37 ⟨0x10131200, 0⟩ ∧
    ReservedByR37 ⟨0x10031204, 0⟩ ∧ ReservedByR37 ⟨0x30011200, 0⟩ ∧ ReservedByR37 ⟨0x02031000, 0⟩ ∧
    ReservedByR37 ⟨0x02030100, 0⟩ ∧ ReservedByR37 ⟨0x10031201, 0⟩ ∧ ¬ ReservedByR37 ⟨0x10031200, 0⟩ := by
  refine ⟨fun c => ⟨withInputs [.command c], rfl⟩, ?_, ?_, ?_, ?_, ?_, ?_, ?_, ?_, ?_⟩ <;>
    (unfold ReservedByR37; decide +kernel)

theorem witness_StepRunsPresentedCommand :
    (withInputs [.command ⟨0x10031200, 0⟩]).inputs = .command ⟨0x10031200, 0⟩ :: [] ∧
    decode ⟨0x10031200, 0⟩ = .command (.add 3 1 2) ∧ decodeTableWord 64 0x10031200 = some (.add 3 1 2) := by
  decide +kernel

theorem witness_InputsAreTakenInOrder :
    goesOn (step (withInputs [])) = true ∧ goesOn (step (withInputs [.idle])) = true ∧
    goesOn (step (withInputs [.command ⟨0x10031200, 0⟩, .idle])) = true ∧
    goesOn (step (withInputs [.rst none])) = true := by decide +kernel

theorem witness_IdleUnitHoldsItsState :
    (withInputs []).inputs = [] ∧ (withInputs [.idle, .rst none]).inputs = .idle :: [.rst none] := by decide

/-- A reset with nothing in flight, and one with a command in flight. -/
theorem witness_RstEntersTheResetState :
    (withInputs [.rst none]).inputs = .rst none :: [] ∧
    (withInputs [.rst (some ⟨0x50031000, 0⟩)]).inputs = .rst (some ⟨0x50031000, 0⟩) :: [] ∧
    decode ⟨0x50031000, 0⟩ = .command (.sqrtU 3 1) := by decide +kernel

theorem witness_OnlyTheDestinationChanges :
    (∃ t, exec (.add 3 1 2) s1 = .next t) ∧ destOf (.add 3 1 2) ≠ some 1 ∧ destOf (.ceq 1 2) ≠ some 3 :=
  ⟨⟨_, rfl⟩, by decide, by decide⟩

theorem witness_OnlyTheListedCommandsWriteFlags :
    (∃ t, exec (.neg 3 1) s1 = .next t) ∧ writesC (.neg 3 1) = false ∧ writesT (.neg 3 1) = false ∧
      writesRdata (.neg 3 1) = false := ⟨⟨_, rfl⟩, rfl, rfl, rfl⟩

/-- A word written and then read, an unwritten word read, the reads of a command all written, and the four inputs that
present no command: none, an idle cycle, `rst`, and a reserved command. -/
theorem witness_CheckedStepIsStepOnWrittenWords :
    (∃ t, checkedStep { s1 with inputs := [.command ⟨0x04001000, 0⟩] } = .next t) ∧
    checkedStep (withInputs [.command ⟨0x04001003, 0⟩]) = .fault (.unwrittenRead 1 3) ∧
    decode ⟨0x10031200, 0⟩ = .command (.add 3 1 2) ∧
    (∀ p ∈ readsOf (.add 3 1 2), s1.isWritten p.1 p.2 = true) ∧
    decode ⟨0x04001003, 0⟩ = .command (.rdw 1 3) ∧
    (∃ p ∈ readsOf (.rdw 1 3), (withInputs [.command ⟨0x04001003, 0⟩]).isWritten p.1 p.2 = false) ∧
    (∀ h ∈ ([[], [.idle], [.rst none], [.command ⟨0, 0⟩]] : List (List HostInput)), ∀ c rest i,
      (withInputs h).inputs = .command c :: rest → decode c ≠ .command i) := by
  refine ⟨⟨_, rfl⟩, rfl, by decide +kernel, by decide +kernel, by decide +kernel,
    ⟨(1, 3), by decide, by decide +kernel⟩, fun h hh c rest i hc hd => ?_⟩
  simp only [List.mem_cons, List.not_mem_nil, or_false] at hh
  obtain rfl | rfl | rfl | rfl := hh
  · cases hc
  · cases hc
  · cases hc
  · injection hc with hc
    injection hc with hc
    subst hc
    exact absurd hd (by rw [show decode ⟨0, 0⟩ = _ from rfl]; nofun)

/-- `WRW x1[0]` then `RDW x1[0]`, the first input of a program. -/
def writeThenRead : State := withInputs [.command ⟨0x03010000, 9⟩, .command ⟨0x04001000, 0⟩]

/-- The same with other contents in the unwritten registers. -/
def writeThenReadJunk : State := { writeThenRead with regs := Vector.replicate 16 junk }

theorem witness_InitialisedRunsCannotSeeResetContents :
    AgreeOnWritten writeThenRead writeThenReadJunk ∧ writeThenRead ≠ writeThenReadJunk ∧
      ∃ t, checkedCore.run 2 writeThenRead = .next t ∧ t.rdata = 9 := by
  refine ⟨?_, by decide +kernel, _, rfl, by decide +kernel⟩
  unfold AgreeOnWritten
  decide +kernel

/-- A state in which word 0 of `x1` has been written, one more command to come, no reset to come. -/
def oneWordWritten : State :=
  { State.reset.writeWord 1 0 9 with inputs := [.command ⟨0x01021000, 0⟩] }

theorem witness_WrittenWordsStayWritten :
    Initialised [(1, 0)] oneWordWritten ∧ goesOn (step oneWordWritten) = true :=
  ⟨⟨by decide +kernel, fun f => by simp [oneWordWritten]⟩, by decide +kernel⟩

theorem witness_FourWordWritesLoadARegister :
    List.Perm [Instr.wrw 3 3 4, .wrw 3 0 1, .wrw 3 2 3, .wrw 3 1 2]
      [.wrw 3 0 1, .wrw 3 1 2, .wrw 3 2 3, .wrw 3 3 4] := by decide +kernel

/-- Buffers of equal length, carry and borrow both ways. -/
theorem witness_RippleCarryIsExact :
    ([0xFFFFFFFF, 0xFFFFFFFF] : WordBuf).length = ([1, 0] : WordBuf).length ∧
    (addWords [0xFFFFFFFF, 0xFFFFFFFF] [1, 0]).2 = true ∧ (subWords [0, 0] [1, 0]).2 = true ∧
    (subWords [1, 0] [1, 0]).2 = false := by decide +kernel

/-- Counts at both ends of the range. -/
theorem witness_ShifterPassesComposeToTheShift :
    0 < 32 * ([5, 6, 7, 0x80000000] : WordBuf).length ∧ 127 < 32 * ([5, 6, 7, 0x80000000] : WordBuf).length := by
  decide

theorem witness_ComparatorsOrderTheValues :
    0 < ([0xFFFFFFFF] : WordBuf).length ∧ 0 < ([0, 1, 0, 0] : WordBuf).length ∧
    gtU [0xFFFFFFFF] 0 [0, 1, 0, 0] 1 = true ∧ ltS [0xFFFFFFFF] 0 [0, 1, 0, 0] 1 = true := by decide +kernel

/-- A plain integer in a register's width, and an exact fit. -/
theorem witness_AlignmentKeepsTheValue :
    0 ≤ 1 ∧ ([0xFFFFFFFB] : WordBuf).length + (1 - 0) ≤ 4 ∧ ([0xFFFFFFFB] : WordBuf).length + (1 - 0) ≤ 2 ∧
    ([1, 2, 3, 4] : WordBuf).length = 4 := by decide

theorem witness_ExtensionKeepsTheValue :
    ([0xFFFFFFFB] : WordBuf).length ≤ 5 ∧ ([0xFFFFFFFB] : WordBuf).length ≤ 1 := by decide

theorem witness_ShiftAndAddIsTheProduct :
    ([1, 2, 3, 4] : WordBuf).length ≤ 5 ∧ multiplySerial 2 [3] [0xFFFFFFFF] .S = [0xFFFFFFFD, 0xFFFFFFFF] := by
  decide +kernel

/-- The lost-bit case of R101 among them: all ones by one half (table 2.7). -/
theorem witness_RestoringDividerIsTheQuotient :
    ([1, 0] : WordBuf).length ≤ ([7, 0] : WordBuf).length ∧ divideRestoring 2 [7, 0] [2, 0] = ([3, 0], [1, 0]) ∧
    divideRestoring 1 [0xFFFFFFFF] [0x80000001] = ([1], [0x7FFFFFFE]) ∧
    divideRestoring 1 [7] [0] = ([0], [7]) := by decide +kernel

theorem witness_Negate : (3 : Reg) ≠ 1 := by decide

/-- No bit lost by the largest such shift; counts 0 and 127 to the right. -/
theorem witness_ShiftRoundTrips :
    raw ((regs123 (q 0 0 0 1) zero junk).x 1) * 2 ^ (127#32).toNat < 2 ^ 128 ∧
    raw ((regs123 allOnes zero junk).x 1) * 2 ^ (0#32).toNat < 2 ^ 128 ∧
    (127#32).toNat ≤ 127 ∧ (0#32).toNat ≤ 127 := by decide +kernel

theorem witness_BitwiseCommands : 0 < 128 ∧ 127 < 128 := by decide

theorem witness_SetTopBit : 0 < 127 ∧ 126 < 127 := by decide

theorem witness_ReadStatus : 2 ≤ 2 ∧ 2 ≤ 31 := by decide

theorem witness_HostWordAccess :
    ((1, 0) : Reg × WordIx) ≠ (1, 3) ∧ ((2, 3) : Reg × WordIx) ≠ (1, 3) := by decide

theorem witness_ComparisonTrichotomy :
    (s1.x 1).w3.getLsbD 31 ≠ (s1.x 2).w3.getLsbD 31 ∧ (s1.x 1).w3.getLsbD 31 = (s1.x 1).w3.getLsbD 31 := by
  decide +kernel

/-- One state for each row of R108. -/
theorem witness_SignedDivisionBoundary :
    ((regs123 minQuad (q 0 0 1 0) junk).x 1 = ⟨0, 0, 0, 0x80000000⟩ ∧
      (regs123 minQuad (q 0 0 1 0) junk).x 2 = ⟨0, 1, 0, 0⟩) ∧
    (regs123 minQuad minusOne junk).x 2 = ⟨0, 0xFFFFFFFF, 0xFFFFFFFF, 0xFFFFFFFF⟩ ∧
    (regs123 minQuad minQuad junk).x 2 = ⟨0, 0, 0, 0x80000000⟩ ∧
    (regs123 minQuad (q 0 0 2 0) junk).x 2 = ⟨0, 2, 0, 0⟩ ∧
    (regs123 minQuad (q 0 0 0 0x80000000) junk).x 2 = ⟨0x80000000, 0, 0, 0⟩ ∧
    ((regs123 (q 0 0 1 0) minQuad junk).x 1 = ⟨0, 1, 0, 0⟩ ∧
      (regs123 (q 0 0 1 0) minQuad junk).x 2 = ⟨0, 0, 0, 0x80000000⟩) ∧
    (regs123 (q 0 0 1 0) zero junk).x 2 = ⟨0, 0, 0, 0⟩ ∧
    (regs123 zero minQuad junk).x 1 = ⟨0, 0, 0, 0⟩ := by decide +kernel

/-- 8000000000.5 and 9000000000.5 (program 4). -/
def program4 : State := regs123 (q 0 1 0xDCD65000 0x80000000) (q 0 2 0x18711A00 0x80000000) junk

/-- The counter-example of 90_conflicts.md C4 to the property as the source words it: the smallest factor. -/
def smallFactor : State := regs123 (q 0 0 1 0xFFFFFFFF) (q 0 0 0 1) junk

theorem witness_MultiplyThenDivideBound :
    (3 : Reg) ≠ 2 ∧ raw (program4.x 2) ≠ 0 ∧ raw (program4.x 1) * raw (program4.x 2) / 2 ^ 32 < 2 ^ 128 ∧
    raw (smallFactor.x 2) ≠ 0 ∧ raw (smallFactor.x 1) * raw (smallFactor.x 2) / 2 ^ 32 < 2 ^ 128 := by decide +kernel

theorem witness_SquareRootCommands :
    rawSigned ((regs123 minQuad zero junk).x 1) < 0 ∧ 0 ≤ rawSigned ((regs123 zero zero junk).x 1) ∧
    (regs123 zero zero junk).x 1 = ⟨0, 0, 0, 0⟩ := by decide +kernel

/-- The zero, the smallest and the largest operand; a step that stops, one that goes on, and one whose `delta` is
negative (the second step of 1600000000.0, R110). -/
theorem witness_SquareRootProcedure :
    ([1, 0, 0, 0] : WordBuf).length = 4 ∧ uval [1, 0, 0, 0] ≠ 0 ∧ (quadWords allOnes).length = 4 ∧
    uval (quadWords allOnes) ≠ 0 ∧ ([0, 0, 0, 0] : WordBuf).length = 4 ∧ uval [0, 0, 0, 0] = 0 ∧
    sqrtStep [0, 0, 0, 0] [1, 0, 0, 0] = none ∧
    sqrtStep [0, 0x2FAF0800, 0, 0] [0xBEBC2000, 0, 0, 0] = some [0x5F5E1000, 0x40000000, 0, 0] ∧
    sqrtStep [0, 0x2FAF0800, 0, 0] [0x5F5E1000, 0x40000000, 0, 0] = some [0xEE6B27FE, 0x20000000, 0, 0] := by
  decide +kernel

/-- Raw 2 has a second estimate (table 2.8: 21 steps). -/
theorem witness_SquareRootNeverDividesByZero :
    uval [2, 0, 0, 0] ≠ 0 ∧
    sqrtEstimate (shrUWords [2, 0, 0, 0] 1) (sqrtSeed [2, 0, 0, 0]) 1 = some [1, 1, 0, 0] := by decide +kernel

theorem witness_SquareRootIgnoresTheLowestBit :
    2 ≤ uval [2, 0, 0, 0] ∧ uval [2, 0, 0, 0] / 2 = uval [3, 0, 0, 0] / 2 := by decide +kernel

end Sys2Proof.Tests
end

section
/-! Proofs about the state: what a command and a step leave unchanged, the cautious step, and the runs of initialised
programs (10_state.md). -/

namespace Sys2Proof.Safety

open Sys2Proof.Machine

/-! ## The state after reset -/

@[simp] theorem reset_isWritten (r : Reg) (k : WordIx) : State.reset.isWritten r k = false := by
  simp [State.isWritten, State.marks, State.reset]

theorem noRstPending_reset : NoRstPending State.reset := fun _ => List.not_mem_nil

/-- Settles O11. -/
theorem resetStateIsAsStated : Obligations.ResetStateIsAsStated :=
  ⟨rfl, rfl, rfl, reset_isWritten⟩

/-- Settles O18: a word in the list would be a word written at reset. -/
theorem nothingIsWrittenAtReset : Obligations.NothingIsWrittenAtReset := by
  intro need
  constructor
  · rintro ⟨hwritten, -⟩
    refine List.eq_nil_iff_forall_not_mem.2 fun p hp => ?_
    have hp := hwritten p hp
    rw [reset_isWritten] at hp
    cases hp
  · rintro rfl
    exact ⟨fun _ hp => absurd hp List.not_mem_nil, noRstPending_reset⟩

/-! ## What the effect of a command leaves unchanged -/

theorem effect_x_of_not_dest {s t : State} {i : Instr} {r : Reg} (he : Effect s i t) (hr : destOf i ≠ some r) :
    t.x r = s.x r := by
  cases he with
  | reg hd => exact writeX_x_ne s _ fun e => hr (hd.trans (congrArg some e.symm))
  | regC hd => rw [setC_x, writeX_x_ne s _ fun e => hr (hd.trans (congrArg some e.symm))]
  | word => exact writeWord_x_ne s _ _ fun e => hr (congrArg some e.symm)
  | test | rdata => rfl

theorem effect_marks_of_not_dest {s t : State} {i : Instr} {r : Reg} (he : Effect s i t) (hr : destOf i ≠ some r) :
    t.marks r = s.marks r := by
  cases he with
  | reg hd => exact writeX_marks_ne s _ fun e => hr (hd.trans (congrArg some e.symm))
  | regC hd => rw [setC_marks, writeX_marks_ne s _ fun e => hr (hd.trans (congrArg some e.symm))]
  | word => exact writeWord_marks_ne s _ _ fun e => hr (congrArg some e.symm)
  | test | rdata => rfl

theorem effect_inputs {s t : State} {i : Instr} (he : Effect s i t) : t.inputs = s.inputs := by
  cases he <;> rfl

theorem effect_rspValid {s t : State} {i : Instr} (he : Effect s i t) : t.rspValid = s.rspValid := by
  cases he <;> rfl

theorem effect_resets {s t : State} {i : Instr} (he : Effect s i t) : t.resets = s.resets := by
  cases he <;> rfl

theorem effect_c_of_not_writesC {s t : State} {i : Instr} (he : Effect s i t) (hc : writesC i = false) :
    t.status.c = s.status.c := by
  cases he with
  | regC _ hc' => exact absurd (hc'.symm.trans hc) Bool.noConfusion
  | reg | word | test | rdata => rfl

theorem effect_t_of_not_writesT {s t : State} {i : Instr} (he : Effect s i t) (ht : writesT i = false) :
    t.status.t = s.status.t := by
  cases he with
  | test _ _ ht' => exact absurd (ht'.symm.trans ht) Bool.noConfusion
  | reg | regC | word | rdata => rfl

theorem effect_rdata_of_not_writesRdata {s t : State} {i : Instr} (he : Effect s i t)
    (hr : writesRdata i = false) : t.rdata = s.rdata := by
  cases he with
  | rdata _ _ _ hr' => exact absurd (hr'.symm.trans hr) Bool.noConfusion
  | reg | regC | word | test => rfl

/-- Settles O13, by the shapes of a command's effect. -/
theorem onlyTheDestinationChanges : Obligations.OnlyTheDestinationChanges := by
  intro i s t h
  have he := effect_of_exec h
  exact ⟨fun r hr => ⟨effect_x_of_not_dest he hr, effect_marks_of_not_dest he hr⟩,
    effect_inputs he, effect_rspValid he, effect_resets he⟩

/-- Settles O14, by the shapes of a command's effect. -/
theorem onlyTheListedCommandsWriteFlags : Obligations.OnlyTheListedCommandsWriteFlags := by
  intro i s t h
  have he := effect_of_exec h
  exact ⟨effect_c_of_not_writesC he, effect_t_of_not_writesT he, effect_rdata_of_not_writesRdata he⟩

/-! ## No command takes a mark away -/

theorem writeX_keeps_isWritten {s : State} {r : Reg} {k : WordIx} (rd : Reg) (q : Quad)
    (h : s.isWritten r k = true) : (s.writeX rd q).isWritten r k = true := by
  by_cases hr : r = rd
  · rw [hr, writeX_isWritten_self]
  · rw [writeX_isWritten_ne s q k hr, h]

theorem writeWord_keeps_isWritten {s : State} {r : Reg} {k : WordIx} (rd : Reg) (kd : WordIx) (w : Word)
    (h : s.isWritten r k = true) : (s.writeWord rd kd w).isWritten r k = true := by
  by_cases hr : r = rd
  · subst hr
    by_cases hk : k = kd
    · rw [hk, writeWord_isWritten_self]
    · rw [writeWord_isWritten_other s r w hk, h]
  · rw [writeWord_isWritten_ne s kd k w hr, h]

theorem effect_keeps_isWritten {s t : State} {i : Instr} {r : Reg} {k : WordIx} (he : Effect s i t)
    (h : s.isWritten r k = true) : t.isWritten r k = true := by
  cases he with
  | reg => exact writeX_keeps_isWritten _ _ h
  | regC => rw [setC_isWritten, writeX_keeps_isWritten _ _ h]
  | word => exact writeWord_keeps_isWritten _ _ _ h
  | test | rdata => exact h

/-! ## The invariant of initialised words -/

/-- The invariant needs only that no mark is taken away and that no input is added. -/
theorem initialised_mono {need : List (Reg × WordIx)} {s t : State} (h : Initialised need s)
    (hw : ∀ r k, s.isWritten r k = true → t.isWritten r k = true) (hin : t.inputs ⊆ s.inputs) :
    Initialised need t :=
  ⟨fun p hp => hw _ _ (h.1 p hp), fun f hf => h.2 f (hin hf)⟩

/-- Settles O17: by the cases of a step. A reset is excluded by the invariant itself, and the other steps take no mark
away. -/
theorem writtenWordsStayWritten : Obligations.WrittenWordsStayWritten := by
  intro need s t h hs
  cases step_next hs with
  | done => exact initialised_mono h (fun _ _ hw => hw) (List.Subset.refl _)
  | idle hi => exact initialised_mono h (fun _ _ hw => hw) (hi ▸ List.subset_cons_self _ _)
  | @ran c rest i u hi hd hx =>
    have he := effect_of_exec hx
    have hin : u.inputs = rest := effect_inputs he
    have hkeep : ∀ r k, s.isWritten r k = true → u.isWritten r k = true :=
      fun r k hw => effect_keeps_isWritten he ((takeInput_isWritten s r k rest).trans hw)
    refine initialised_mono h hkeep ?_
    rw [retire_inputs, hin, hi]
    exact List.subset_cons_self _ _
  | reset hi => exact absurd (hi ▸ List.mem_cons_self) (h.2 _)

/-! ## The converse of `step_next`: each case of a step is one -/

theorem step_of_cases {s t : State} (h : StepCases s t) : step s = .next t := by
  cases h with
  | done hi | idle hi => simp only [step, hi]
  | ran hi hd he => simp only [step, hi, hd, he]
  | reset hi hf => simp only [step, hi, hf]

theorem step_next_iff {s t : State} : step s = .next t ↔ StepCases s t := ⟨step_next, step_of_cases⟩

/-- A presented command is executed on the state with the input taken, and retires (30_encoding.md R42). -/
theorem step_runs_command {s : State} {c : Command} {rest : List HostInput} {i : Instr}
    (hi : s.inputs = .command c :: rest) (hd : decode c = .command i) :
    ∃ t, exec i (s.takeInput rest) = .next t ∧ step s = .next t.retire := by
  obtain ⟨t, ht, -⟩ := exec_effect i (s.takeInput rest)
  exact ⟨t, ht, step_of_cases (.ran hi hd ht)⟩

/-- The machine raises no fault (60_exceptions.md R126). -/
theorem step_ne_fault (s : State) (f : Fault) : step s ≠ .fault f := by
  intro h
  unfold step at h
  split at h
  · cases h
  · cases h
  · next c rest hi =>
    split at h
    · cases h
    · next i hd =>
      obtain ⟨t, ht, -⟩ := exec_effect i (s.takeInput rest)
      rw [ht] at h
      cases h
  · split at h <;> cases h

theorem decode_of_decodeTableWord {nbits w : Nat} {i : Instr} (h : decodeTableWord nbits w = some i) :
    decode (commandOfBits (w % 2 ^ nbits)) = .command i := by
  unfold decodeTableWord at h
  split at h
  · next j hd => cases h; exact hd
  · cases h

@[simp] theorem withFetchWord_inputs (s : State) (nbits w : Nat) :
    (s.withFetchWord nbits w).inputs = .command (commandOfBits (w % 2 ^ nbits)) :: s.inputs := rfl

@[simp] theorem withFetchWord_takeInput (s : State) (nbits w : Nat) :
    (s.withFetchWord nbits w).takeInput s.inputs = s := rfl

/-- Settles O7. -/
theorem stepRunsPresentedCommand : Obligations.StepRunsPresentedCommand := by
  refine ⟨fun s c rest i hi hd => ?_, fun s nbits w i hw => ?_, fun s => ⟨rfl, rfl, rfl⟩⟩
  · obtain ⟨t, hx, hs⟩ := step_runs_command hi hd
    exact ⟨t, t.retire, hx, hs, retiresTo_retire t⟩
  · obtain ⟨t, hx, hs⟩ := step_runs_command (withFetchWord_inputs s nbits w) (decode_of_decodeTableWord hw)
    rw [withFetchWord_takeInput] at hx
    exact ⟨t, t.retire, hx, hs, retiresTo_retire t⟩

/-! ## The cautious step -/

/-- Whatever command the state presents, every word it reads has been written. -/
def ReadsAreWritten (s : State) : Prop :=
  ∀ c rest i, s.inputs = .command c :: rest → decode c = .command i → ∀ p ∈ readsOf i, s.isWritten p.1 p.2 = true

/-- What the cautious step can do: fault on an unwritten word of those a presented command reads, or be the step. -/
inductive CheckedCases (s : State) : Prop where
  | fault {c rest i r k} (hi : s.inputs = .command c :: rest) (hd : decode c = .command i) (hp : (r, k) ∈ readsOf i)
      (hw : s.isWritten r k = false) (hf : checkedStep s = .fault (.unwrittenRead r k))
  | step (hr : ReadsAreWritten s) (hs : checkedStep s = step s)

theorem checkedStep_cases (s : State) : CheckedCases s := by
  have present {c rest i} (hi : s.inputs = .command c :: rest) (hd : decode c = .command i) : CheckedCases s := by
    cases hu : firstUnwritten s (readsOf i) with
    | some p =>
      obtain ⟨hp, hw⟩ := firstUnwritten_some hu
      exact .fault hi hd hp hw (by simp only [checkedStep, hi, hd, hu])
    | none =>
      refine .step (fun c' rest' i' hi' hd' => ?_) (by simp only [checkedStep, hi, hd, hu])
      cases hi.symm.trans hi'
      cases hd.symm.trans hd'
      exact firstUnwritten_none hu
  by_cases h : ∃ c rest i, s.inputs = .command c :: rest ∧ decode c = .command i
  · obtain ⟨c, rest, i, hi, hd⟩ := h
    exact present hi hd
  · refine .step (fun c rest i hi hd => absurd ⟨c, rest, i, hi, hd⟩ h) ?_
    unfold checkedStep
    split
    · next c rest hi =>
      split
      · next i hd => exact absurd ⟨c, rest, i, hi, hd⟩ h
      · rfl
    · rfl

theorem checkedStep_next {s t : State} (h : checkedStep s = .next t) : ReadsAreWritten s ∧ step s = .next t := by
  cases checkedStep_cases s with
  | fault _ _ _ _ hf => rw [hf] at h; cases h
  | step hr hs => exact ⟨hr, hs ▸ h⟩

theorem checkedStep_eq_step {s : State} (h : ReadsAreWritten s) : checkedStep s = step s := by
  cases checkedStep_cases s with
  | fault hi hd hp hw => exact absurd ((h _ _ _ hi hd _ hp).symm.trans hw) Bool.noConfusion
  | step _ hs => exact hs

theorem checkedStep_fault {s : State} {r : Reg} {k : WordIx} (h : checkedStep s = .fault (.unwrittenRead r k)) :
    s.isWritten r k = false ∧
      ∃ c rest i, s.inputs = .command c :: rest ∧ decode c = .command i ∧ (r, k) ∈ readsOf i := by
  cases checkedStep_cases s with
  | fault hi hd hp hw hf =>
    cases hf.symm.trans h
    exact ⟨hw, _, _, _, hi, hd, hp⟩
  | step _ hs => exact absurd (hs.symm.trans h) (step_ne_fault s _)

/-- Settles O15, from the two things the cautious step can do. -/
theorem checkedStepIsStepOnWrittenWords : Obligations.CheckedStepIsStepOnWrittenWords := by
  refine ⟨fun s t h => (checkedStep_next h).2, fun s r k h => checkedStep_fault h, ?written, ?unwritten, ?none⟩
  case written =>
    intro s c rest i hi hd hp
    refine checkedStep_eq_step fun c' rest' i' hi' hd' => ?_
    cases hi.symm.trans hi'
    cases hd.symm.trans hd'
    exact hp
  case unwritten =>
    rintro s c rest i hi hd ⟨p, hp, hpw⟩
    cases checkedStep_cases s with
    | fault hi' hd' hp' hw' hf =>
      cases hi.symm.trans hi'
      cases hd.symm.trans hd'
      exact ⟨_, _, hp', hw', hf⟩
    | step hr => exact absurd ((hr _ _ _ hi hd p hp).symm.trans hpw) Bool.noConfusion
  case none =>
    exact fun s h => checkedStep_eq_step fun c rest i hi hd => absurd hd (h c rest i hi)

/-! ## States that differ only in unwritten words: every update keeps them so -/

theorem mem_wholeReg (r : Reg) (k : WordIx) : (r, k) ∈ wholeReg r := by
  fin_cases k <;> simp [wholeReg]

namespace AgreeOnWritten

variable {s s' : State}

theorem isWritten_eq (h : AgreeOnWritten s s') (r : Reg) (k : WordIx) : s.isWritten r k = s'.isWritten r k := by
  obtain ⟨-, hwritten, -⟩ := h
  rw [State.isWritten, State.isWritten, State.marks, State.marks, hwritten]

theorem inputs_eq (h : AgreeOnWritten s s') : s.inputs = s'.inputs := by
  obtain ⟨-, -, -, -, -, hin, -⟩ := h
  exact hin

theorem status_eq (h : AgreeOnWritten s s') : s.status = s'.status := by
  obtain ⟨-, -, hst, -⟩ := h
  exact hst

theorem word_eq_of_written (h : AgreeOnWritten s s') {r : Reg} {k : WordIx} (hk : s.isWritten r k = true) :
    s.word r k = s'.word r k := by
  obtain ⟨hword, -⟩ := h
  exact hword r k hk

theorem x_eq_of_written (h : AgreeOnWritten s s') {r : Reg}
    (hr : ∀ p ∈ wholeReg r, s.isWritten p.1 p.2 = true) : s.x r = s'.x r :=
  quad_ext_words fun k => h.word_eq_of_written (hr (r, k) (mem_wholeReg r k))

theorem xWords_eq_of_written (h : AgreeOnWritten s s') {r : Reg}
    (hr : ∀ p ∈ wholeReg r, s.isWritten p.1 p.2 = true) : s.xWords r = s'.xWords r :=
  congrArg quadWords (h.x_eq_of_written hr)

theorem xWords_eq_of_both_written (h : AgreeOnWritten s s') {ra rb : Reg}
    (hr : ∀ p ∈ wholeReg ra ++ wholeReg rb, s.isWritten p.1 p.2 = true) :
    s.xWords ra = s'.xWords ra ∧ s.xWords rb = s'.xWords rb :=
  have ⟨ha, hb⟩ := List.forall_mem_append.1 hr
  ⟨h.xWords_eq_of_written ha, h.xWords_eq_of_written hb⟩

theorem writeX (h : AgreeOnWritten s s') (rd : Reg) (q : Quad) : AgreeOnWritten (s.writeX rd q) (s'.writeX rd q) := by
  obtain ⟨hword, hwritten, hst, hrdata, hrsp, hin, hres⟩ := h
  refine ⟨fun r k hk => ?_, ?_, hst, hrdata, hrsp, hin, hres⟩
  · by_cases hr : r = rd
    · simp only [State.word, hr, writeX_x_self]
    · rw [writeX_isWritten_ne s q k hr] at hk
      simpa only [State.word, writeX_x_ne _ q hr] using hword r k hk
  · simp only [State.writeX, hwritten]

theorem writeWord (h : AgreeOnWritten s s') (rd : Reg) (kd : WordIx) (w : Word) :
    AgreeOnWritten (s.writeWord rd kd w) (s'.writeWord rd kd w) := by
  obtain ⟨hword, hwritten, hst, hrdata, hrsp, hin, hres⟩ := h
  refine ⟨fun r k hk => ?_, ?_, hst, hrdata, hrsp, hin, hres⟩
  · by_cases hr : r = rd
    · subst hr
      by_cases hkd : k = kd
      · simp only [State.word, hkd, writeWord_x_self, quadWord_setWord_self]
      · rw [writeWord_isWritten_other s r w hkd] at hk
        simpa only [State.word, writeWord_x_self, quadWord_setWord_ne _ w hkd] using hword r k hk
    · rw [writeWord_isWritten_ne s kd k w hr] at hk
      simpa only [State.word, writeWord_x_ne _ kd w hr] using hword r k hk
  · simp only [State.writeWord, State.marks, hwritten]

theorem setC (h : AgreeOnWritten s s') (c : Bool) : AgreeOnWritten (s.setC c) (s'.setC c) := by
  obtain ⟨hword, hwritten, hst, hrest⟩ := h
  exact ⟨hword, hwritten, congrArg (fun st => { st with c := c }) hst, hrest⟩

theorem setT (h : AgreeOnWritten s s') (b : Bool) : AgreeOnWritten (s.setT b) (s'.setT b) := by
  obtain ⟨hword, hwritten, hst, hrest⟩ := h
  exact ⟨hword, hwritten, congrArg (fun st => { st with t := b }) hst, hrest⟩

theorem setRdata (h : AgreeOnWritten s s') (w : Word) : AgreeOnWritten (s.setRdata w) (s'.setRdata w) := by
  obtain ⟨hword, hwritten, hst, -, hrest⟩ := h
  exact ⟨hword, hwritten, hst, rfl, hrest⟩

theorem takeInput (h : AgreeOnWritten s s') (l : List HostInput) :
    AgreeOnWritten (s.takeInput l) (s'.takeInput l) := by
  obtain ⟨hword, hwritten, hst, hrdata, hrsp, -, hres⟩ := h
  exact ⟨hword, hwritten, hst, hrdata, hrsp, rfl, hres⟩

theorem retire (h : AgreeOnWritten s s') : AgreeOnWritten s.retire s'.retire := by
  obtain ⟨hword, hwritten, hst, hrdata, -, hrest⟩ := h
  exact ⟨hword, hwritten, hst, hrdata, rfl, hrest⟩

theorem stayIdle (h : AgreeOnWritten s s') : AgreeOnWritten s.stayIdle s'.stayIdle := by
  obtain ⟨hword, hwritten, hst, hrdata, -, hrest⟩ := h
  exact ⟨hword, hwritten, hst, hrdata, rfl, hrest⟩

/-- A reset leaves no word written, so nothing is asked of the contents. -/
theorem enterReset (h : AgreeOnWritten s s') : AgreeOnWritten s.enterReset s'.enterReset := by
  obtain ⟨-, -, -, -, -, hin, hres⟩ := h
  refine ⟨fun r k hk => ?_, rfl, rfl, rfl, rfl, hin, congrArg (· + 1) hres⟩
  rw [enterReset_isWritten] at hk
  cases hk

end AgreeOnWritten

/-! ## A command sees only the words it reads -/

/-- Two results that are next states which again differ only in unwritten words. -/
def AgreeingResults (a b : Result) : Prop := ∃ t t', a = .next t ∧ b = .next t' ∧ AgreeOnWritten t t'

namespace AgreeOnWritten

variable {s s' : State}

theorem writeResult (h : AgreeOnWritten s s') {rd : Reg} {out out' : WordBuf} (ho : out = out') :
    AgreeingResults (writeResult rd out s) (writeResult rd out' s') :=
  ho ▸ ⟨_, _, rfl, rfl, h.writeX rd _⟩

theorem writeResultC (h : AgreeOnWritten s s') {rd : Reg} {out out' : WordBuf × Bool} (ho : out = out') :
    AgreeingResults (writeResultC rd out s) (writeResultC rd out' s') :=
  ho ▸ ⟨_, _, rfl, rfl, (h.writeX rd _).setC _⟩

theorem writeTest (h : AgreeOnWritten s s') {b b' : Bool} (hb : b = b') :
    AgreeingResults (writeTest b s) (writeTest b' s') :=
  hb ▸ ⟨_, _, rfl, rfl, h.setT _⟩

theorem writeRdata (h : AgreeOnWritten s s') {w w' : Word} (hw : w = w') :
    AgreeingResults (writeRdata w s) (writeRdata w' s') :=
  hw ▸ ⟨_, _, rfl, rfl, h.setRdata _⟩

/-- One case for each form of result and number of source registers. -/
theorem exec (h : AgreeOnWritten s s') {i : Instr} (hr : ∀ p ∈ readsOf i, s.isWritten p.1 p.2 = true) :
    AgreeingResults (Machine.exec i s) (Machine.exec i s') := by
  cases i
  case mkz | ldiU | ldiS => exact h.writeResult rfl
  case wrw rd k imm => exact ⟨_, _, rfl, rfl, h.writeWord rd k imm⟩
  case rds => exact h.writeRdata (congrArg statusWord h.status_eq)
  case rdw ra k => exact h.writeRdata (h.word_eq_of_written (hr (ra, k) List.mem_cons_self))
  case toiU ra => exact h.writeRdata (h.word_eq_of_written (hr (ra, 1) (mem_wholeReg ra 1)))
  case toiS => exact h.writeRdata (congrArg toiSigned (h.x_eq_of_written hr))
  case add | sub =>
    obtain ⟨ha, hb⟩ := h.xWords_eq_of_both_written hr
    exact h.writeResultC (by rw [ha, hb])
  case addiU | addiS | subiU | subiS | inc | dec =>
    have ha := h.xWords_eq_of_written hr
    exact h.writeResultC (by rw [ha])
  case and | or | xor | mulU | mulS | divU | divS =>
    obtain ⟨ha, hb⟩ := h.xWords_eq_of_both_written hr
    exact h.writeResult (by rw [ha, hb])
  case mov | neg | shl | shrU | shrS | not | smsb | muliU | muliS | diviU | diviS | sqrtU | sqrtS =>
    have ha := h.xWords_eq_of_written hr
    exact h.writeResult (by rw [ha])
  case ceq | cne | cltU | cltS | cgtU | cgtS | cleU | cleS | cgeU | cgeS =>
    obtain ⟨ha, hb⟩ := h.xWords_eq_of_both_written hr
    exact h.writeTest (by rw [ha, hb])
  case tz | tbitU | tbitS | tmsb | tlsb =>
    have ha := h.xWords_eq_of_written hr
    exact h.writeTest (by rw [ha])

theorem readsAreWritten (h : AgreeOnWritten s s') (hr : ReadsAreWritten s) : ReadsAreWritten s' := by
  intro c rest i hi hd p hp
  rw [← h.isWritten_eq]
  exact hr c rest i (h.inputs_eq.trans hi) hd p hp

theorem step {t : State} (h : AgreeOnWritten s s') (hr : ReadsAreWritten s) (hs : Machine.step s = .next t) :
    ∃ t', Machine.step s' = .next t' ∧ AgreeOnWritten t t' := by
  simp only [step_next_iff] at hs ⊢
  have hin := h.inputs_eq.symm
  cases hs with
  | done hi => exact ⟨_, .done (hin.trans hi), h.stayIdle⟩
  | idle hi => exact ⟨_, .idle (hin.trans hi), (h.takeInput _).stayIdle⟩
  | @ran c rest i u hi hd he =>
    obtain ⟨v, v', hv, hv', ha⟩ := (h.takeInput rest).exec (hr c rest i hi hd)
    cases hv.symm.trans he
    exact ⟨_, .ran (hin.trans hi) hd hv', ha.retire⟩
  | reset hi hf => exact ⟨_, .reset (hin.trans hi) hf, (h.takeInput _).enterReset⟩

/-- A cautious step is the step from either state, and keeps them agreeing. -/
theorem checkedStep {t : State} (h : AgreeOnWritten s s') (hs : Safety.checkedStep s = .next t) :
    Machine.step s = .next t ∧
      ∃ t', Safety.checkedStep s' = .next t' ∧ Machine.step s' = .next t' ∧ AgreeOnWritten t t' := by
  obtain ⟨hr, hs⟩ := checkedStep_next hs
  obtain ⟨t', hs', ha⟩ := h.step hr hs
  exact ⟨hs, t', (checkedStep_eq_step (h.readsAreWritten hr)).trans hs', hs', ha⟩

end AgreeOnWritten

/-! ## Runs -/

theorem run_succ_next_iff {M : Host.Core} {n : Nat} {s u : M.State} :
    M.run (n + 1) s = .next u ↔ ∃ t, M.step s = .next t ∧ M.run n t = .next u := by
  cases h : M.step s <;> simp [Host.Core.run, h]

/-- Settles O16, by induction on the number of steps. -/
theorem initialisedRunsCannotSeeResetContents : Obligations.InitialisedRunsCannotSeeResetContents := by
  intro n
  induction n with
  | zero =>
    intro s s' t h hrun
    cases hrun
    exact ⟨rfl, s', rfl, rfl, h⟩
  | succ n ih =>
    intro s s' t h hrun
    obtain ⟨u, hu, hrun⟩ := run_succ_next_iff.1 hrun
    obtain ⟨hstep, u', hu', hstep', hagree⟩ := h.checkedStep hu
    obtain ⟨hrest, t', hc', hs', ht⟩ := ih u u' t hagree hrun
    exact ⟨run_succ_next_iff.2 ⟨u, hstep, hrest⟩, t', run_succ_next_iff.2 ⟨u', hu', hc'⟩,
      run_succ_next_iff.2 ⟨u', hstep', hs'⟩, ht⟩

end Sys2Proof.Safety
end

section
/-! Proofs about the host's inputs: what every step takes of them (20_memory.md R27). -/

namespace Sys2Proof.Memory

open Sys2Proof.Machine

/-- The input is taken before the command executes; the command itself touches no input. -/
theorem exec_takeInput_inputs {s t : State} {rest : List HostInput} {i : Instr}
    (he : exec i (s.takeInput rest) = .next t) : t.inputs = rest :=
  Safety.effect_inputs (effect_of_exec he)

theorem stepCases_inputs {s t : State} (h : StepCases s t) : t.inputs = s.inputs.tail := by
  cases h with
  | done hi => rw [stayIdle_inputs, hi, List.tail_nil]
  | idle hi => rw [stayIdle_inputs, takeInput_inputs, hi, List.tail_cons]
  | ran hi _ he => rw [retire_inputs, exec_takeInput_inputs he, hi, List.tail_cons]
  | reset hi => rw [enterReset_inputs, takeInput_inputs, hi, List.tail_cons]

/-- Settles O8, by the cases of a step. -/
theorem inputsAreTakenInOrder : Obligations.InputsAreTakenInOrder :=
  fun _ _ h => stepCases_inputs (step_next h)

end Sys2Proof.Memory
end

section
/-! Proofs about the encoding: the fields of the control word, what the decoder answers, its round trips with the
encoder, the mask and match table, and the reserved words (30_encoding.md). -/

namespace Sys2Proof.Encoding

open Sys2Proof.Machine Sys2Proof.Safety

/-! ## The control word is its eight fields (30_encoding.md R33) -/

theorem append_eq_append_iff {m n : Nat} {a a' : BitVec m} {b b' : BitVec n} :
    a ++ b = a' ++ b' ↔ a = a' ∧ b = b' := by
  refine ⟨fun h => ⟨?_, ?_⟩, fun ⟨ha, hb⟩ => ha ▸ hb ▸ rfl⟩
  · simpa only [BitVec.extractLsb'_append_eq_left] using congrArg (BitVec.extractLsb' n m) h
  · simpa only [BitVec.extractLsb'_append_eq_right] using congrArg (BitVec.extractLsb' 0 n) h

theorem concat_inj {op op' : BitVec 8} {s s' : BitVec 1} {zh zh' : BitVec 3} {rd rd' ra ra' rb rb' : BitVec 4}
    {zl zl' : BitVec 6} {k k' : BitVec 2} :
    op ++ s ++ zh ++ rd ++ ra ++ rb ++ zl ++ k = op' ++ s' ++ zh' ++ rd' ++ ra' ++ rb' ++ zl' ++ k' ↔
      op = op' ∧ s = s' ∧ zh = zh' ∧ rd = rd' ∧ ra = ra' ∧ rb = rb' ∧ zl = zl' ∧ k = k' := by
  simp only [append_eq_append_iff, and_assoc]

/-- The fields of R33, cut out of a word and put side by side, are the word. -/
theorem concat_extract (x : Word) :
    x.extractLsb' 24 8 ++ x.extractLsb' 23 1 ++ x.extractLsb' 20 3 ++ x.extractLsb' 16 4 ++ x.extractLsb' 12 4 ++
      x.extractLsb' 8 4 ++ x.extractLsb' 2 6 ++ x.extractLsb' 0 2 = x := by
  refine Eq.trans (b := x.extractLsb' 0 (8 + 1 + 3 + 4 + 4 + 4 + 6 + 2)) ?_ BitVec.extractLsb'_eq_self
  iterate 7 rw [BitVec.extractLsb'_append_extractLsb'_eq_extractLsb']
  all_goals rfl

theorem ofNat_val_inj {n : Nat} {a b : Fin (2 ^ n)} : BitVec.ofNat n a.val = BitVec.ofNat n b.val ↔ a = b := by
  simp only [← BitVec.toNat_inj, BitVec.toNat_ofNat, Nat.mod_eq_of_lt (Fin.isLt _), Fin.val_inj]

theorem ofNat_toFin {n : Nat} (x : BitVec n) : BitVec.ofNat n x.toFin.val = x := by simp

theorem ofBool_getLsbD {n : Nat} (x : BitVec n) (i : Nat) : BitVec.ofBool (x.getLsbD i) = x.extractLsb' i 1 := by
  refine BitVec.eq_of_getLsbD_eq fun j hj => ?_
  obtain rfl : j = 0 := by omega
  simp

/-- The control word with all its fields given, the two that must be zero among them. -/
def wordOfFields (op : BitVec 8) (s : Bool) (zh : BitVec 3) (rd ra rb : Reg) (zl : BitVec 6) (k : WordIx) : Word :=
  op ++ BitVec.ofBool s ++ zh ++ BitVec.ofNat 4 rd.val ++ BitVec.ofNat 4 ra.val ++ BitVec.ofNat 4 rb.val ++ zl
    ++ BitVec.ofNat 2 k.val

theorem wordOfFields_inj {op op' : BitVec 8} {s s' : Bool} {zh zh' : BitVec 3} {rd rd' ra ra' rb rb' : Reg}
    {zl zl' : BitVec 6} {k k' : WordIx} :
    wordOfFields op s zh rd ra rb zl k = wordOfFields op' s' zh' rd' ra' rb' zl' k' ↔
      op = op' ∧ s = s' ∧ zh = zh' ∧ rd = rd' ∧ ra = ra' ∧ rb = rb' ∧ zl = zl' ∧ k = k' :=
  concat_inj.trans (by rw [BitVec.ofBool_eq_iff_eq, ofNat_val_inj (n := 4), ofNat_val_inj (n := 4),
    ofNat_val_inj (n := 4), ofNat_val_inj (n := 2)])

theorem cw_eq_wordOfFields (c : Command) :
    c.cw = wordOfFields c.op c.s c.zeroHigh c.rd c.ra c.rb c.zeroLow c.k := by
  refine (concat_extract c.cw).symm.trans (concat_inj.2 ⟨rfl, ?_, rfl, ?_, ?_, ?_, rfl, ?_⟩)
  · exact (ofBool_getLsbD c.cw 23).symm
  all_goals exact (ofNat_toFin _).symm

/-- Bits 22:20 and 7:2 are zero (R33). -/
def ZeroFields (c : Command) : Prop := c.zeroHigh = 0 ∧ c.zeroLow = 0

/-- The encoder's `packCw` is the word with those fields whose zero fields are zero. -/
theorem packCw_eq_wordOfFields (op : BitVec 8) (s : Bool) (rd ra rb : Reg) (k : WordIx) :
    packCw op s rd ra rb k = wordOfFields op s 0 rd ra rb 0 k := rfl

theorem cw_eq_packCw {c : Command} (hz : ZeroFields c) : c.cw = packCw c.op c.s c.rd c.ra c.rb c.k := by
  rw [cw_eq_wordOfFields c, hz.1, hz.2, packCw_eq_wordOfFields]

section
variable (op : BitVec 8) (s : Bool) (rd ra rb : Reg) (k : WordIx) (iw : Word)

theorem packCw_fields :
    let c : Command := ⟨packCw op s rd ra rb k, iw⟩
    c.op = op ∧ c.s = s ∧ c.zeroHigh = 0 ∧ c.rd = rd ∧ c.ra = ra ∧ c.rb = rb ∧ c.zeroLow = 0 ∧ c.k = k :=
  wordOfFields_inj.1 (cw_eq_wordOfFields _).symm

@[simp] theorem packCw_op : Command.op ⟨packCw op s rd ra rb k, iw⟩ = op := by
  obtain ⟨h, -⟩ := packCw_fields op s rd ra rb k iw; exact h
@[simp] theorem packCw_s : Command.s ⟨packCw op s rd ra rb k, iw⟩ = s := by
  obtain ⟨-, h, -⟩ := packCw_fields op s rd ra rb k iw; exact h
@[simp] theorem packCw_rd : Command.rd ⟨packCw op s rd ra rb k, iw⟩ = rd := by
  obtain ⟨-, -, -, h, -⟩ := packCw_fields op s rd ra rb k iw; exact h
@[simp] theorem packCw_ra : Command.ra ⟨packCw op s rd ra rb k, iw⟩ = ra := by
  obtain ⟨-, -, -, -, h, -⟩ := packCw_fields op s rd ra rb k iw; exact h
@[simp] theorem packCw_rb : Command.rb ⟨packCw op s rd ra rb k, iw⟩ = rb := by
  obtain ⟨-, -, -, -, -, h, -⟩ := packCw_fields op s rd ra rb k iw; exact h
@[simp] theorem packCw_k : Command.k ⟨packCw op s rd ra rb k, iw⟩ = k := by
  obtain ⟨-, -, -, -, -, -, -, h⟩ := packCw_fields op s rd ra rb k iw; exact h
@[simp] theorem zeroFields_packCw : ZeroFields ⟨packCw op s rd ra rb k, iw⟩ := by
  obtain ⟨-, -, hzh, -, -, -, hzl, -⟩ := packCw_fields op s rd ra rb k iw; exact ⟨hzh, hzl⟩

end

/-! ## When each check and each format answers a command (30_encoding.md R34, R37)

Each format: the zero fields are zero, what it does not use is zero, and it reads these operands. -/

section
variable {c : Command} {i : Instr}

theorem accept_eq_command {regs k : Bool} {j : Instr} :
    accept c regs k j = .command i ↔ ZeroFields c ∧ (regs = true ∧ k = true) ∧ j = i := by
  unfold accept
  split
  · next hz =>
    have hz : ¬ ZeroFields c := fun h => hz.elim (· h.1) (· h.2)
    simp [hz]
  · next hz =>
    have hz : ZeroFields c := by simpa only [ZeroFields, not_or, not_not] using hz
    cases regs <;> cases k <;> simp [hz]

@[simp] theorem oneForm_eq_command {d : Decoded} : oneForm c d = .command i ↔ c.s = false ∧ d = .command i := by
  unfold oneForm
  cases c.s <;> simp

@[simp] theorem twoForms_eq_command {u s : Decoded} :
    twoForms c u s = .command i ↔ (c.s = false ∧ u = .command i) ∨ (c.s = true ∧ s = .command i) := by
  unfold twoForms
  cases c.s <;> simp

@[simp] theorem fmtRRR_eq_command {f : Reg → Reg → Reg → Instr} :
    fmtRRR c f = .command i ↔ ZeroFields c ∧ c.k = 0 ∧ f c.rd c.ra c.rb = i := by
  simp [fmtRRR, accept_eq_command]
@[simp] theorem fmtRR_eq_command {f : Reg → Reg → Instr} :
    fmtRR c f = .command i ↔ ZeroFields c ∧ (c.rb = 0 ∧ c.k = 0) ∧ f c.rd c.ra = i := by
  simp [fmtRR, accept_eq_command]
@[simp] theorem fmtR_eq_command {f : Reg → Instr} :
    fmtR c f = .command i ↔ ZeroFields c ∧ ((c.ra = 0 ∧ c.rb = 0) ∧ c.k = 0) ∧ f c.rd = i := by
  simp [fmtR, accept_eq_command]
@[simp] theorem fmtRRI_eq_command {f : Reg → Reg → Word → Instr} :
    fmtRRI c f = .command i ↔ ZeroFields c ∧ (c.rb = 0 ∧ c.k = 0) ∧ f c.rd c.ra c.iw = i := by
  simp [fmtRRI, accept_eq_command]
@[simp] theorem fmtRI_eq_command {f : Reg → Word → Instr} :
    fmtRI c f = .command i ↔ ZeroFields c ∧ ((c.ra = 0 ∧ c.rb = 0) ∧ c.k = 0) ∧ f c.rd c.iw = i := by
  simp [fmtRI, accept_eq_command]
@[simp] theorem fmtRKI_eq_command {f : Reg → WordIx → Word → Instr} :
    fmtRKI c f = .command i ↔ ZeroFields c ∧ (c.ra = 0 ∧ c.rb = 0) ∧ f c.rd c.k c.iw = i := by
  simp [fmtRKI, accept_eq_command]
@[simp] theorem fmtAK_eq_command {f : Reg → WordIx → Instr} :
    fmtAK c f = .command i ↔ ZeroFields c ∧ (c.rd = 0 ∧ c.rb = 0) ∧ f c.ra c.k = i := by
  simp [fmtAK, accept_eq_command]
@[simp] theorem fmtA_eq_command {f : Reg → Instr} :
    fmtA c f = .command i ↔ ZeroFields c ∧ ((c.rd = 0 ∧ c.rb = 0) ∧ c.k = 0) ∧ f c.ra = i := by
  simp [fmtA, accept_eq_command]
@[simp] theorem fmtAI_eq_command {f : Reg → Word → Instr} :
    fmtAI c f = .command i ↔ ZeroFields c ∧ ((c.rd = 0 ∧ c.rb = 0) ∧ c.k = 0) ∧ f c.ra c.iw = i := by
  simp [fmtAI, accept_eq_command]
@[simp] theorem fmtAB_eq_command {f : Reg → Reg → Instr} :
    fmtAB c f = .command i ↔ ZeroFields c ∧ (c.rd = 0 ∧ c.k = 0) ∧ f c.ra c.rb = i := by
  simp [fmtAB, accept_eq_command]
@[simp] theorem fmtZ_eq_command {j : Instr} :
    fmtZ c j = .command i ↔ ZeroFields c ∧ (((c.rd = 0 ∧ c.ra = 0) ∧ c.rb = 0) ∧ c.k = 0) ∧ j = i := by
  simp [fmtZ, accept_eq_command]

end

/-! ## The decoder is the inverse of the encoder -/

/-- The command carries the encoding of the instruction, in IW only if the instruction has an immediate (R32). -/
def Carries (c : Command) (i : Instr) : Prop :=
  (encode i).cw = c.cw ∧ (i.usesImmediate = true → (encode i).iw = c.iw)

theorem carries_encode (i : Instr) : Carries (encode i) i := ⟨rfl, fun _ => rfl⟩

/-- Each format finds the fields the encoder packed, and zero in those it does not use. -/
theorem decode_of_carries {c : Command} {i : Instr} (h : Carries c i) : decode c = .command i := by
  obtain ⟨cw, iw⟩ := c
  obtain ⟨rfl, hiw⟩ : (encode i).cw = cw ∧ (i.usesImmediate = true → (encode i).iw = iw) := h
  cases i
  all_goals simp_all [encode, decode, Instr.usesImmediate]

/-- In each opcode's branch the format takes the operands from the word's fields, and the word is those fields. -/
theorem carries_of_decode {c : Command} {i : Instr} (h : decode c = .command i) : Carries c i := by
  have hcw {n : Nat} (hop : c.op.toNat = n) (hz : ZeroFields c) :
      c.cw = packCw (BitVec.ofNat 8 n) c.s c.rd c.ra c.rb c.k := by
    rw [cw_eq_packCw hz, ← hop, BitVec.ofNat_toNat, BitVec.setWidth_eq]
  unfold decode at h
  split at h
  case h_37 => cases h
  all_goals
    next hop =>
    cases hs : c.s <;> simp only [hs, oneForm_eq_command, twoForms_eq_command, fmtRRR_eq_command, fmtRR_eq_command,
      fmtR_eq_command, fmtRRI_eq_command, fmtRI_eq_command, fmtRKI_eq_command, fmtAK_eq_command, fmtA_eq_command,
      fmtAI_eq_command, fmtAB_eq_command, fmtZ_eq_command, reduceCtorEq, false_and, true_and, false_or, or_false] at h
    all_goals
      obtain ⟨hz, hunused, rfl⟩ := h
      simp [Carries, hcw hop hz, hs, hunused, encode, Instr.usesImmediate]

theorem decode_eq_command_iff {c : Command} {i : Instr} : decode c = .command i ↔ Carries c i :=
  ⟨carries_of_decode, decode_of_carries⟩

/-- Settles O1: every encoded command carries its own instruction. -/
theorem decodeInvertsEncode : Obligations.DecodeInvertsEncode :=
  fun i => decode_eq_command_iff.2 (carries_encode i)

/-- Settles O3: a command that has an immediate and carries the instruction is its encoding. -/
theorem encodeInvertsDecode : Obligations.EncodeInvertsDecode := by
  intro c i h
  obtain ⟨hcw, hiw⟩ := decode_eq_command_iff.1 h
  exact ⟨hcw, fun hu => congrArg₂ Command.mk hcw (hiw hu)⟩

/-- Settles O4: what a command without an immediate carries is its control word. -/
theorem unusedImmediateIsIgnored : Obligations.UnusedImmediateIsIgnored := by
  intro c i iw h hu
  obtain ⟨hcw, -⟩ := decode_eq_command_iff.1 h
  exact decode_eq_command_iff.2 ⟨hcw, fun hu' => absurd (hu.symm.trans hu') Bool.noConfusion⟩

/-- Settles O6: each legal word is the encoding of its command; the reserved ones are read by the decoder's checks. -/
theorem specWordsDecode : Obligations.SpecWordsDecode := by
  have legal {c : Command} {i : Instr} (h : encode i = c) : decode c = .command i := h ▸ decodeInvertsEncode i
  exact ⟨legal rfl, legal rfl, legal rfl, legal rfl, legal rfl, legal rfl, legal rfl, legal rfl, legal rfl, legal rfl,
    rfl, rfl, rfl, rfl, rfl⟩

/-! ## Which control words decode: the opcodes and the fields their formats use (30_encoding.md R36, R37) -/

/-- The word leaves at zero what the format does not use: no clause of R37 but the one on the opcode holds of it. -/
def Fits (u : FormatUse) (c : Command) : Prop :=
  (u.hasVariants = false → c.s = false) ∧ ZeroFields c ∧ (u.usesRd = false → c.rd = 0) ∧
    (u.usesRa = false → c.ra = 0) ∧ (u.usesRb = false → c.rb = 0) ∧ (u.usesK = false → c.k = 0)

/-- R37 opcode by opcode: the format of R34 that the decoder applies uses the fields that `opcodeUse` lists. -/
theorem decodes_iff_fits {c : Command} :
    ∀ p ∈ opcodeUse, c.op.toNat = p.1 → ((∃ i, decode c = .command i) ↔ Fits p.2 c) := by
  simp only [opcodeUse, List.cons_append, List.nil_append, List.forall_mem_cons, List.not_mem_nil, false_implies,
    implies_true, and_true]
  and_intros
  all_goals
    intro hop
    cases hs : c.s
    all_goals simp [decode, hop, hs, Fits, and_assoc]

theorem opcode_of_decode {c : Command} {i : Instr} (h : decode c = .command i) :
    ∃ p ∈ opcodeUse, c.op.toNat = p.1 := by
  unfold decode at h
  split at h
  case h_37 => cases h
  all_goals
    next hop =>
    rw [hop]
    decide

/-! ## The reserved words (30_encoding.md R37) -/

theorem extractLsb'_eq_zero_iff {w : Nat} (x : BitVec w) (i n : Nat) :
    x.extractLsb' i n = 0#n ↔ x.toNat / 2 ^ i % 2 ^ n = 0 := by
  rw [← BitVec.toNat_inj, BitVec.extractLsb'_toNat, Nat.shiftRight_eq_div_pow, BitVec.toNat_ofNat, Nat.zero_mod]

theorem extractLsb'_toFin_eq_zero_iff {w : Nat} (x : BitVec w) (i n : Nat) :
    (x.extractLsb' i n).toFin = 0 ↔ x.toNat / 2 ^ i % 2 ^ n = 0 := by
  rw [← extractLsb'_eq_zero_iff, ← BitVec.toFin_inj]
  rfl

theorem op_toNat (c : Command) : c.op.toNat = c.cw.toNat / 2 ^ 24 := by
  have := c.cw.isLt
  rw [Command.op, BitVec.extractLsb'_toNat, Nat.shiftRight_eq_div_pow]
  omega

theorem s_eq_false_iff (c : Command) : c.s = false ↔ ¬ c.cw.toNat / 2 ^ 23 % 2 = 1 := by
  rw [Command.s, ← BitVec.testBit_toNat, Nat.testBit_eq_decide_div_mod_eq, decide_eq_false_iff_not]

/-- `Fits` in the arithmetic of `ReservedByR37`: no clause of R37 holds of the fields. -/
theorem fits_iff (u : FormatUse) (c : Command) : Fits u c ↔
    ¬ ((c.cw.toNat / 2 ^ 23 % 2 = 1 ∧ u.hasVariants = false) ∨
      c.cw.toNat / 2 ^ 20 % 2 ^ 3 ≠ 0 ∨ c.cw.toNat / 2 ^ 2 % 2 ^ 6 ≠ 0 ∨
      (c.cw.toNat / 2 ^ 16 % 2 ^ 4 ≠ 0 ∧ u.usesRd = false) ∨
      (c.cw.toNat / 2 ^ 12 % 2 ^ 4 ≠ 0 ∧ u.usesRa = false) ∨
      (c.cw.toNat / 2 ^ 8 % 2 ^ 4 ≠ 0 ∧ u.usesRb = false) ∨
      (c.cw.toNat % 2 ^ 2 ≠ 0 ∧ u.usesK = false)) := by
  have hrd : c.rd = 0 ↔ c.cw.toNat / 2 ^ 16 % 2 ^ 4 = 0 := extractLsb'_toFin_eq_zero_iff c.cw 16 4
  have hra : c.ra = 0 ↔ c.cw.toNat / 2 ^ 12 % 2 ^ 4 = 0 := extractLsb'_toFin_eq_zero_iff c.cw 12 4
  have hrb : c.rb = 0 ↔ c.cw.toNat / 2 ^ 8 % 2 ^ 4 = 0 := extractLsb'_toFin_eq_zero_iff c.cw 8 4
  have hk : c.k = 0 ↔ c.cw.toNat % 2 ^ 2 = 0 :=
    (extractLsb'_toFin_eq_zero_iff c.cw 0 2).trans (by rw [pow_zero, Nat.div_one])
  have hhigh : c.zeroHigh = 0 ↔ c.cw.toNat / 2 ^ 20 % 2 ^ 3 = 0 := extractLsb'_eq_zero_iff c.cw 20 3
  have hlow : c.zeroLow = 0 ↔ c.cw.toNat / 2 ^ 2 % 2 ^ 6 = 0 := extractLsb'_eq_zero_iff c.cw 2 6
  simp only [Fits, ZeroFields, s_eq_false_iff, hrd, hra, hrb, hk, hhigh, hlow, not_or, not_and', not_not, and_assoc]

theorem reservedByR37_iff (c : Command) : ReservedByR37 c ↔ ¬ ∃ i, decode c = .command i := by
  have hres : ReservedByR37 c ↔
      (∀ p ∈ opcodeUse, c.op.toNat ≠ p.1) ∨ ∃ p ∈ opcodeUse, c.op.toNat = p.1 ∧ ¬ Fits p.2 c := by
    simp only [ReservedByR37, op_toNat, fits_iff, not_not]
  rw [hres]
  constructor
  · rintro (hno | ⟨p, hp, hop, hfits⟩) hdec
    · obtain ⟨i, hi⟩ := hdec
      obtain ⟨p, hp, hop⟩ := opcode_of_decode hi
      exact hno p hp hop
    · exact hfits ((decodes_iff_fits p hp hop).1 hdec)
  · intro hdec
    by_cases hop : ∃ p ∈ opcodeUse, c.op.toNat = p.1
    · obtain ⟨p, hp, hop⟩ := hop
      exact .inr ⟨p, hp, hop, fun hfits => hdec ((decodes_iff_fits p hp hop).2 hfits)⟩
    · exact .inl fun p hp e => hop ⟨p, hp, e⟩

theorem step_refused_iff {s : State} {c : Command} {rest : List HostInput} (hi : s.inputs = .command c :: rest)
    (why : Reserved) : step s = .refused (.reservedCommand why) ↔ decode c = .reserved why := by
  cases hd : decode c with
  | command i =>
    obtain ⟨t, -, hs⟩ := step_runs_command hi hd
    simp [hs]
  | reserved r => simp [step, hi, hd]

/-- Settles O5: the step refuses a presented command exactly when the decoder does, and that is when the opcode is not
listed or the word does not fit its format. -/
theorem reservedWordsAreRefused : Obligations.ReservedWordsAreRefused := by
  intro s c rest hi
  simp only [step_refused_iff hi, reservedByR37_iff]
  cases decode c <;> simp

/-! ## The mask and match table (30_encoding.md R34) -/

/-- The bits of a field that a format fixes: all of them unless it uses the field. -/
def fixedBits (n : Nat) (used : Bool) : BitVec n := if used then 0 else BitVec.allOnes n

/-- The mask of a format, from the fields it uses (R34). -/
def maskOf (u : FormatUse) : Word :=
  BitVec.allOnes 8 ++ BitVec.allOnes 1 ++ BitVec.allOnes 3 ++ fixedBits 4 u.usesRd ++ fixedBits 4 u.usesRa ++
    fixedBits 4 u.usesRb ++ BitVec.allOnes 6 ++ fixedBits 2 u.usesK

theorem and_fixedBits_eq_zero_iff {n : Nat} (x : Fin (2 ^ n)) (used : Bool) :
    BitVec.ofNat n x.val &&& fixedBits n used = 0#n ↔ (used = false → x = 0) := by
  cases used with
  | true => simp [fixedBits]
  | false =>
    simp only [fixedBits, Bool.false_eq_true, if_false, BitVec.and_allOnes, true_implies]
    rw [← ofNat_val_inj]
    rfl

/-- `CW AND mask = match` (R34), field by field. -/
theorem and_maskOf_eq_iff {c : Command} {u : FormatUse} {op : BitVec 8} {s : Bool} :
    c.cw &&& maskOf u = packCw op s 0 0 0 0 ↔ c.op = op ∧ c.s = s ∧ c.zeroHigh = 0 ∧
      (u.usesRd = false → c.rd = 0) ∧ (u.usesRa = false → c.ra = 0) ∧ (u.usesRb = false → c.rb = 0) ∧
      c.zeroLow = 0 ∧ (u.usesK = false → c.k = 0) := by
  have hmask : c.cw &&& maskOf u = _ :=
    (congrArg (· &&& maskOf u) (cw_eq_wordOfFields c)).trans (Laws.EncodedWellFormed.and_fields ..)
  rw [hmask]
  refine concat_inj.trans ?_
  rw [BitVec.ofBool_eq_iff_eq, ← and_fixedBits_eq_zero_iff (n := 4), ← and_fixedBits_eq_zero_iff (n := 4),
    ← and_fixedBits_eq_zero_iff (n := 4), ← and_fixedBits_eq_zero_iff (n := 2)]
  rfl

theorem opcode_lt : ∀ p ∈ opcodeUse, p.1 < 2 ^ 8 := by decide

/-- The table of R34 has no mask and no match word but those of the opcodes and formats of R36. -/
theorem opcodeTable_from_opcodeUse : ∀ row ∈ opcodeTable, ∃ p ∈ opcodeUse, ∃ s : Bool,
    (p.2.hasVariants = false → s = false) ∧ row.mask = maskOf p.2 ∧
      row.bits = packCw (BitVec.ofNat 8 p.1) s 0 0 0 0 := by
  decide +kernel

theorem opcodeTable_bits_nodup : (opcodeTable.map OpcodeRow.bits).Nodup := by decide +kernel

theorem opcodeTable_mnemonic_nodup : (opcodeTable.map OpcodeRow.mnemonic).Nodup := by decide +kernel

/-- A word that matches a row decodes, and the row's match word is the word's opcode and variant bit. -/
theorem decodes_of_row_match {c : Command} {row : OpcodeRow} (hrow : row ∈ opcodeTable)
    (h : c.cw &&& row.mask = row.bits) : (∃ i, decode c = .command i) ∧ row.bits = packCw c.op c.s 0 0 0 0 := by
  obtain ⟨p, hp, s, hs, hmask, hbits⟩ := opcodeTable_from_opcodeUse row hrow
  rw [hmask, hbits, and_maskOf_eq_iff] at h
  obtain ⟨hop, rfl, hhigh, hrd, hra, hrb, hlow, hk⟩ := h
  have hopcode : c.op.toNat = p.1 := by
    rw [hop, BitVec.toNat_ofNat, Nat.mod_eq_of_lt (opcode_lt p hp)]
  exact ⟨(decodes_iff_fits p hp hopcode).2 ⟨hs, ⟨hhigh, hlow⟩, hrd, hra, hrb, hk⟩, by rw [hbits, hop]⟩

open Laws.EncodedWellFormed in
theorem encodedWellFormed (i : Instr) : Statement i := by
  cases i
  exacts [mov .., mkz .., wrw .., rdw .., ldiU .., ldiS .., toiU .., toiS .., rds, add .., sub .., addiU .., addiS ..,
    subiU .., subiS .., neg .., inc .., dec .., shl .., shrU .., shrS .., and .., or .., xor .., not .., ceq .., cne ..,
    cltU .., cltS .., cgtU .., cgtS .., cleU .., cleS .., cgeU .., cgeS .., tz .., tbitU .., tbitS .., tmsb .., tlsb ..,
    smsb .., mulU .., mulS .., muliU .., muliS .., divU .., divS .., diviU .., diviS .., sqrtU .., sqrtS ..]

theorem row_of_decode {c : Command} {i : Instr} (h : decode c = .command i) :
    ∃ row ∈ opcodeTable, row.mnemonic = i.mnemonic ∧ c.cw &&& row.mask = row.bits := by
  obtain ⟨hcw, -⟩ := decode_eq_command_iff.1 h
  exact hcw ▸ encodedWellFormed i

/-- Settles O2: a word that matches a row decodes, so it also matches the row of the command it decodes to; no two rows
share a match word, nor a mnemonic. -/
theorem commandIsItsTableRow : Obligations.CommandIsItsTableRow := by
  refine ⟨fun c row hrow => ⟨fun h => ?_, ?_⟩, fun c i h => ?_⟩
  · obtain ⟨⟨i, hi⟩, hbits⟩ := decodes_of_row_match hrow h
    obtain ⟨row', hrow', hmn, h'⟩ := row_of_decode hi
    obtain ⟨-, hbits'⟩ := decodes_of_row_match hrow' h'
    obtain rfl := List.inj_on_of_nodup_map opcodeTable_bits_nodup hrow hrow' (hbits.trans hbits'.symm)
    exact ⟨i, hi, hmn.symm⟩
  · rintro ⟨i, hi, hmn⟩
    obtain ⟨row', hrow', hmn', h'⟩ := row_of_decode hi
    obtain rfl := List.inj_on_of_nodup_map opcodeTable_mnemonic_nodup hrow' hrow (hmn'.trans hmn)
    exact h'
  · obtain ⟨row, hrow, hmn, -⟩ := row_of_decode h
    exact ⟨row, hrow, hmn⟩

end Sys2Proof.Encoding
end

section
/-! Proofs about loading a register by four word writes (30_encoding.md R41, 47_move_convert_host.md R115,
70_reset_and_hazards.md R141). -/

namespace Sys2Proof.HostWrites

open Sys2Proof.Machine Sys2Proof.Safety

theorem runCommands_cons_of_next {i : Instr} {s t : State} (h : exec i s = .next t) (is : List Instr) :
    runCommands (i :: is) s = runCommands is t := by
  simp only [runCommands, h]

/-- Running `i` and then `j` leaves what running `j` and then `i` leaves. -/
def Commute (i j : Instr) : Prop := ∀ s, runCommands [i, j] s = runCommands [j, i] s

theorem runCommands_cons_cons (i j : Instr) (is : List Instr) (s : State) :
    ∃ t, runCommands [i, j] s = .next t ∧ runCommands (i :: j :: is) s = runCommands is t := by
  obtain ⟨t, ht, -⟩ := exec_effect i s
  obtain ⟨u, hu, -⟩ := exec_effect j t
  refine ⟨u, ?_, ?_⟩
  all_goals rw [runCommands_cons_of_next ht, runCommands_cons_of_next hu]
  rfl

/-- Commands that commute pairwise can be run in any order. -/
theorem runCommands_perm {is js : List Instr} (hperm : is.Perm js) (hcomm : ∀ i ∈ is, ∀ j ∈ is, Commute i j)
    (s : State) : runCommands is s = runCommands js s := by
  induction hperm generalizing s with
  | nil => rfl
  | @cons i is js _ ih =>
    obtain ⟨t, ht, -⟩ := exec_effect i s
    rw [runCommands_cons_of_next ht, runCommands_cons_of_next ht]
    exact ih (fun a ha b hb => hcomm a (.tail i ha) b (.tail i hb)) t
  | swap i j is =>
    obtain ⟨t, ht, htail⟩ := runCommands_cons_cons j i is s
    obtain ⟨u, hu, hutail⟩ := runCommands_cons_cons i j is s
    have hsame := hcomm j (by simp) i (by simp) s
    rw [ht, hu] at hsame
    cases hsame
    rw [htail, hutail]
  | trans h₁ _ ih₁ ih₂ =>
    rw [ih₁ hcomm s]
    exact ih₂ (fun a ha b hb => hcomm a (h₁.mem_iff.2 ha) b (h₁.mem_iff.2 hb)) s

theorem quadSetWord_comm (q : Quad) {k k' : WordIx} (w w' : Word) (h : k ≠ k') :
    quadSetWord (quadSetWord q k w) k' w' = quadSetWord (quadSetWord q k' w') k w := by
  refine quad_ext_words fun j => ?_
  by_cases hj : j = k
  · subst hj; rw [quadWord_setWord_ne _ _ h, quadWord_setWord_self, quadWord_setWord_self]
  by_cases hj' : j = k'
  · subst hj'; rw [quadWord_setWord_self, quadWord_setWord_ne _ _ hj, quadWord_setWord_self]
  rw [quadWord_setWord_ne _ _ hj', quadWord_setWord_ne _ _ hj, quadWord_setWord_ne _ _ hj, quadWord_setWord_ne _ _ hj']

theorem writeWord_writeWord (s : State) (r : Reg) (k k' : WordIx) (w w' : Word) :
    (s.writeWord r k w).writeWord r k' w' =
      { s with
        regs := s.regs.set r (quadSetWord (quadSetWord (s.x r) k w) k' w')
        written := s.written.set r (((s.marks r).set k true).set k' true) } := by
  rw [State.writeWord, writeWord_x_self, writeWord_marks_self]
  simp [State.writeWord]

theorem wrw_commute (rd : Reg) {k k' : WordIx} (w w' : Word) (h : k ≠ k') :
    Commute (.wrw rd k w) (.wrw rd k' w') := by
  intro s
  refine congrArg Host.Outcome.next ?_
  rw [writeWord_writeWord, writeWord_writeWord, quadSetWord_comm _ _ _ h, Vector.set_comm]
  exact fun e => h (Fin.ext e)

/-- The `WRW` of word `k` of the content `q`. -/
def loadWord (rd : Reg) (q : Quad) (k : WordIx) : Instr := .wrw rd k (quadWord q k)

theorem loadWord_commute (rd : Reg) (q : Quad) (k k' : WordIx) : Commute (loadWord rd q k) (loadWord rd q k') := by
  by_cases h : k = k'
  · subst h; exact fun _ => rfl
  · exact wrw_commute rd _ _ h

theorem set_all_true (v : Vector Bool 4) :
    (((v.set 0 true).set 1 true).set 2 true).set 3 true = Vector.replicate 4 true := by
  refine Vector.ext fun j hj => ?_
  simp only [Vector.getElem_set, Vector.getElem_replicate]
  interval_cases j <;> rfl

/-- The four writes in order, as `LDX` expands to them, write the whole register and all its marks (R13, R141). -/
theorem runCommands_loadWords (rd : Reg) (q : Quad) (s : State) :
    runCommands ([0, 1, 2, 3].map (loadWord rd q)) s = .next (s.writeX rd q) := by
  refine congrArg Host.Outcome.next ?_
  rw [writeWord_writeWord, writeWord_writeWord, State.writeX, ← set_all_true (s.marks rd)]
  simp [State.x, State.marks, quadSetWord, quadWord]

/-- Settles O19: the writes commute, so every order leaves what the order of `LDX` leaves. -/
theorem fourWordWritesLoadARegister : Obligations.FourWordWritesLoadARegister := by
  intro s rd w3 w2 w1 w0
  refine ⟨fun cmds hperm => ?_, rfl⟩
  have hperm : cmds.Perm ([0, 1, 2, 3].map (loadWord rd ⟨w0, w1, w2, w3⟩)) := hperm
  rw [← runCommands_loadWords, ← runCommands_perm hperm.symm]
  intro i hi j hj
  obtain ⟨k, -, rfl⟩ := List.mem_map.1 hi
  obtain ⟨k', -, rfl⟩ := List.mem_map.1 hj
  exact loadWord_commute rd _ k k'

end Sys2Proof.HostWrites
end

section
/-! Proofs about the word-array primitives: the adder, the negator, extension and alignment, the comparators, the
shifters (40_word_array_primitives.md). -/

namespace Sys2Proof.WordArrays

open Sys2Proof.Machine

/-! ## The integer a buffer holds: concatenation, runs of one word, the sign -/

theorem two_pow_words_succ (n : Nat) : 2 ^ (32 * (n + 1)) = 2 ^ 32 * 2 ^ (32 * n) := by
  rw [Nat.mul_add, Nat.pow_add, Nat.mul_comm]

@[simp] theorem uval_append (a b : WordBuf) : uval (a ++ b) = uval a + 2 ^ (32 * a.length) * uval b := by
  induction a with
  | nil => simp
  | cons w ws ih => rw [List.cons_append, uval_cons, uval_cons, ih, List.length_cons, two_pow_words_succ]; ring

@[simp] theorem uval_replicate_zero (n : Nat) : uval (List.replicate n 0#32) = 0 := uval_makeZero n

/-- A run of all-ones words holds the largest value of its width. -/
theorem uval_replicate_ones (n : Nat) : uval (List.replicate n 0xFFFFFFFF#32) + 1 = 2 ^ (32 * n) := by
  induction n with
  | zero => rfl
  | succ n ih => rw [List.replicate_succ, uval_cons, two_pow_words_succ, ← ih, BitVec.toNat_ofNat]; omega

/-- Bit `32n - 1` of a buffer is the top bit of its last word. -/
theorem signBit_eq_msb (b : WordBuf) : signBit b = (b.getLastD 0).msb := by
  rcases b.eq_nil_or_concat with rfl | ⟨ws, w, rfl⟩
  · rfl
  · have hword : (32 * (ws.length + 1) - 1) / 32 = ws.length := by omega
    have hbit : (32 * (ws.length + 1) - 1) % 32 = 31 := by omega
    simp [signBit, bitAt, hword, hbit, BitVec.msb_eq_getLsbD_last]

theorem signBit_append (a : WordBuf) {b : WordBuf} (hb : b ≠ []) : signBit (a ++ b) = signBit b := by
  rw [signBit_eq_msb, signBit_eq_msb, List.getLastD_eq_getLast?, List.getLastD_eq_getLast?,
    List.getLast?_append_of_ne_nil _ hb]

theorem msb_signFill (b : WordBuf) : (signFill b).msb = signBit b := by
  unfold signFill
  cases signBit b <;> rfl

/-- The sign contributes `-2^(32n)` to the signed value. -/
theorem sval_eq (b : WordBuf) : sval b = uval b - 2 ^ (32 * b.length) * (signBit b).toNat := by
  unfold sval
  cases signBit b <;> simp

/-! ## The ripple-carry adder and subtractor (R44, R45) -/

/-- Sum and carry-out together are the exact sum. -/
theorem addCarry_exact {a b : WordBuf} (h : a.length = b.length) (c : Bool) :
    uval (addCarry a b c).1 + 2 ^ (32 * a.length) * (addCarry a b c).2.toNat = uval a + uval b + c.toNat := by
  induction a generalizing b c with
  | nil =>
    obtain rfl := List.length_eq_zero_iff.1 h.symm
    simp [addCarry]
  | cons x xs ih =>
    obtain _ | ⟨y, ys⟩ := b
    · cases h
    have hx := x.isLt
    have hy := y.isLt
    have hc := c.toNat_le
    have hcarry : (((x.toNat + y.toNat + c.toNat) / 2 ^ 32 == 1) : Bool).toNat =
        (x.toNat + y.toNat + c.toNat) / 2 ^ 32 := by
      have : (x.toNat + y.toNat + c.toNat) / 2 ^ 32 ≤ 1 := by omega
      interval_cases (x.toNat + y.toNat + c.toNat) / 2 ^ 32 <;> rfl
    have hrest := ih (Nat.succ.inj h) ((x.toNat + y.toNat + c.toNat) / 2 ^ 32 == 1)
    rw [hcarry] at hrest
    simp only [addCarry, uval_cons, BitVec.toNat_ofNat, List.length_cons, two_pow_words_succ, Nat.mul_assoc]
    omega

/-- What the borrow stands for makes the difference exact. -/
theorem subBorrow_exact {a b : WordBuf} (h : a.length = b.length) (br : Bool) :
    uval (subBorrow a b br).1 + uval b + br.toNat = uval a + 2 ^ (32 * a.length) * (subBorrow a b br).2.toNat := by
  induction a generalizing b br with
  | nil =>
    obtain rfl := List.length_eq_zero_iff.1 h.symm
    simp [subBorrow]
  | cons x xs ih =>
    obtain _ | ⟨y, ys⟩ := b
    · cases h
    have hx := x.isLt
    have hy := y.isLt
    have hbr := br.toNat_le
    have hword : (BitVec.ofInt 32 ((x.toNat : Int) - y.toNat - br.toNat)).toNat + y.toNat + br.toNat =
        x.toNat + 2 ^ 32 * (decide ((x.toNat : Int) - y.toNat - br.toNat < 0)).toNat := by
      rw [BitVec.toNat_ofInt]
      by_cases hneg : (x.toNat : Int) - y.toNat - br.toNat < 0
      · rw [decide_eq_true hneg, Bool.toNat_true]; omega
      · rw [decide_eq_false hneg, Bool.toNat_false]; omega
    have hrest := ih (Nat.succ.inj h) (decide ((x.toNat : Int) - y.toNat - br.toNat < 0))
    simp only [subBorrow, uval_cons, List.length_cons, two_pow_words_succ, Nat.mul_assoc]
    omega

theorem addWords_length_of_eq {a b : WordBuf} (h : a.length = b.length) : (addWords a b).1.length = a.length := by
  rw [addWords_length, ← h, Nat.min_self]

theorem subWords_length_of_eq {a b : WordBuf} (h : a.length = b.length) : (subWords a b).1.length = a.length := by
  rw [subWords_length, ← h, Nat.min_self]

theorem addWords_exact {a b : WordBuf} (h : a.length = b.length) :
    uval (addWords a b).1 + 2 ^ (32 * a.length) * (addWords a b).2.toNat = uval a + uval b :=
  addCarry_exact h false

theorem subWords_exact {a b : WordBuf} (h : a.length = b.length) :
    uval (subWords a b).1 + uval b = uval a + 2 ^ (32 * a.length) * (subWords a b).2.toNat :=
  subBorrow_exact h false

theorem uval_addWords {a b : WordBuf} (h : a.length = b.length) :
    uval (addWords a b).1 = (uval a + uval b) % 2 ^ (32 * a.length) := by
  have hlt := uval_lt (addWords a b).1
  rw [addWords_length_of_eq h] at hlt
  rw [← addWords_exact h, Nat.add_mul_mod_self_left, Nat.mod_eq_of_lt hlt]

theorem carry_addWords {a b : WordBuf} (h : a.length = b.length) :
    (addWords a b).2.toNat = (uval a + uval b) / 2 ^ (32 * a.length) := by
  have hlt := uval_lt (addWords a b).1
  rw [addWords_length_of_eq h] at hlt
  rw [← addWords_exact h, Nat.add_mul_div_left _ _ (by positivity), Nat.div_eq_of_lt hlt, Nat.zero_add]

theorem uval_subWords {a b : WordBuf} (h : a.length = b.length) :
    (uval (subWords a b).1 : Int) = ((uval a : Int) - uval b) % 2 ^ (32 * a.length) := by
  have hlt := uval_lt (subWords a b).1
  rw [subWords_length_of_eq h] at hlt
  have hdiff : (uval a : Int) - uval b = uval (subWords a b).1 - 2 ^ (32 * a.length) * (subWords a b).2.toNat := by
    have hexact := subWords_exact h
    zify at hexact
    linarith
  rw [hdiff, Int.sub_mul_emod_self_left, Int.emod_eq_of_lt (by positivity) (by exact_mod_cast hlt)]

theorem borrow_subWords_iff {a b : WordBuf} (h : a.length = b.length) :
    (subWords a b).2 = true ↔ uval a < uval b := by
  have hlt := uval_lt (subWords a b).1
  rw [subWords_length_of_eq h] at hlt
  have hexact := subWords_exact h
  cases hbr : (subWords a b).2 with
  | false =>
    rw [hbr, Bool.toNat_false] at hexact
    simp only [Bool.false_eq_true, false_iff]
    omega
  | true =>
    rw [hbr, Bool.toNat_true] at hexact
    simp only [true_iff]
    omega

/-- Settles O20: the carry and the borrow make the sum and the difference exact, hence exact modulo `2^(32n)`. -/
theorem rippleCarryIsExact : Obligations.RippleCarryIsExact := fun _ _ h =>
  ⟨addWords_length_of_eq h, uval_addWords h, carry_addWords h, subWords_length_of_eq h, uval_subWords h,
    borrow_subWords_iff h⟩

/-! ## The negator (R48) -/

/-- A buffer and its bit-inverse add up to all ones. -/
theorem uval_invert (a : WordBuf) :
    uval a + uval (a.map fun w => w ^^^ 0xFFFFFFFF) + 1 = 2 ^ (32 * a.length) := by
  induction a with
  | nil => rfl
  | cons w ws ih =>
    have hw := w.isLt
    have hnot : (w ^^^ 0xFFFFFFFF).toNat = 2 ^ 32 - 1 - w.toNat := by
      rw [show (0xFFFFFFFF : Word) = BitVec.allOnes 32 from rfl, BitVec.xor_allOnes, BitVec.toNat_not]
    rw [List.map_cons, uval_cons, uval_cons, List.length_cons, two_pow_words_succ, ← ih, hnot]
    omega

theorem uval_negWords (a : WordBuf) :
    uval (negWords a) = (2 ^ (32 * a.length) - uval a) % 2 ^ (32 * a.length) := by
  have hlen : (a.map fun w => w ^^^ 0xFFFFFFFF).length = (buf a.length 1).length := by simp
  rw [negWords, uval_addWords hlen, uval_buf, List.length_map, Nat.add_mod_mod]
  congr 1
  have := uval_invert a
  omega

theorem negWords_negWords (a : WordBuf) : negWords (negWords a) = a := by
  refine eq_of_uval_eq (by simp) ?_
  have hlt := uval_lt a
  rw [uval_negWords, negWords_length, uval_negWords]
  rcases Nat.eq_zero_or_pos (uval a) with h0 | hpos
  · simp [h0]
  · rw [Nat.mod_eq_of_lt (Nat.sub_lt (by positivity) hpos), Nat.sub_sub_self hlt.le, Nat.mod_eq_of_lt hlt]

/-- Settles O21: an operand and its bit-inverse add up to all ones. -/
theorem negateIsExactAndInvolutive : Obligations.NegateIsExactAndInvolutive := fun a =>
  ⟨uval_negWords a, negWords_negWords a⟩

/-! ## Extension (R58) -/

theorem uval_ext_U (m : Nat) (b : WordBuf) : uval (ext m b .U) = uval b := by simp [ext]

theorem uval_replicate_signFill (n : Nat) (b : WordBuf) :
    (uval (List.replicate n (signFill b)) : Int) = (2 ^ (32 * n) - 1) * (signBit b).toNat := by
  unfold signFill
  cases signBit b with
  | false => simp
  | true =>
    have := uval_replicate_ones n
    zify at this
    simp [← this]

/-- The sign fill repeats the operand's own sign bit. -/
theorem signBit_ext_S (m : Nat) (b : WordBuf) : signBit (ext m b .S) = signBit b := by
  rw [ext]
  cases m - b.length with
  | zero => simp
  | succ k =>
    rw [signBit_append _ (by simp), signBit_eq_msb, List.replicate_succ', List.getLastD_concat, msb_signFill]

theorem sval_ext_S (m : Nat) (b : WordBuf) : sval (ext m b .S) = sval b := by
  rw [sval_eq, signBit_ext_S, sval_eq, ext, uval_append, List.length_append, List.length_replicate, Nat.mul_add,
    pow_add]
  push_cast
  rw [uval_replicate_signFill]
  ring

/-- Settles O25: zero words add nothing, and words of the sign carry the sign's weight to the new top. -/
theorem extensionKeepsTheValue : Obligations.ExtensionKeepsTheValue := fun b m h =>
  ⟨ext_length .U h, ext_length .S h, uval_ext_U m b, sval_ext_S m b⟩

/-! ## Alignment (R46, R47) -/

/-- The fill word of an extension. -/
def fillOf (v : Variant) (b : WordBuf) : Word :=
  match v with
  | .U => 0
  | .S => signFill b

theorem ext_eq (m : Nat) (b : WordBuf) (v : Variant) :
    ext m b v = b ++ List.replicate (m - b.length) (fillOf v b) := by
  cases v <;> rfl

/-- `ALIGN` lists the words that `WORDAT` of R53 finds, from weight position `-fa` upwards. -/
theorem align_eq_map_wordAt (b : WordBuf) (fb sa fa : Nat) (fill : Word) :
    align b fb sa fa fill = (List.range sa).map fun i : Nat => wordAt b fb (-fa + i) fill := by
  have hidx (i : Nat) : (-fa + i + fb : Int) = i - (fa - fb) := by ring
  simp only [align, wordAt, hidx, List.bind_eq_flatMap, List.pure_def, ← List.map_eq_flatMap, List.map_map]
  rfl

theorem wordAt_below {b : WordBuf} {fb : Nat} {p : Int} (fill : Word) (h : p + fb < 0) : wordAt b fb p fill = 0 := by
  rw [wordAt, if_neg (by omega), if_neg (by omega)]

theorem wordAt_inside {b : WordBuf} {fb j : Nat} {p : Int} (fill : Word) (hp : p + fb = j) (hj : j < b.length) :
    wordAt b fb p fill = b[j] := by
  rw [wordAt, if_pos (by omega), hp, Int.toNat_natCast, List.getD_eq_getElem]

theorem wordAt_above {b : WordBuf} {fb : Nat} {p : Int} (fill : Word) (h : b.length ≤ p + fb) :
    wordAt b fb p fill = fill := by
  rw [wordAt, if_neg (by omega), if_pos h]

/-- `ALIGN` with room for the whole operand: zeros below it, the operand, its extension above. -/
theorem align_eq_append_ext (b : WordBuf) {fb sa fa : Nat} (v : Variant) (hf : fb ≤ fa)
    (hfit : b.length + (fa - fb) ≤ sa) :
    align b fb sa fa (fillOf v b) = List.replicate (fa - fb) 0 ++ ext (sa - (fa - fb)) b v := by
  rw [align_eq_map_wordAt]
  refine List.ext_getElem (by simp [ext_eq]; omega) fun i hi _ => ?_
  simp only [List.getElem_map, List.getElem_range, ext_eq, List.getElem_append, List.length_replicate,
    List.getElem_replicate]
  rcases Nat.lt_or_ge i (fa - fb) with hlow | hlow
  · rw [wordAt_below _ (by omega), dif_pos hlow]
  rcases Nat.lt_or_ge (i - (fa - fb)) b.length with hmid | hhigh
  · rw [wordAt_inside _ (by omega) hmid, dif_neg (by omega), dif_pos hmid]
  · rw [wordAt_above _ (by omega), dif_neg (by omega), dif_neg (by omega)]

theorem sval_replicate_zero_append (n : Nat) (b : WordBuf) :
    sval (List.replicate n 0#32 ++ b) = sval b * 2 ^ (32 * n) := by
  have hsign : signBit (List.replicate n 0#32 ++ b) = signBit b := by
    rcases eq_or_ne b [] with rfl | hb
    · rw [List.append_nil, signBit_eq_msb]
      cases n <;> simp [List.replicate_succ', signBit_eq_msb]
    · exact signBit_append _ hb
  rw [sval_eq, sval_eq, hsign]
  simp only [uval_append, uval_replicate_zero, List.length_append, List.length_replicate]
  push_cast
  ring

theorem uval_align {b : WordBuf} {fb sa fa : Nat} (hf : fb ≤ fa) (hfit : b.length + (fa - fb) ≤ sa) :
    uval (align b fb sa fa 0) = uval b * 2 ^ (32 * (fa - fb)) := by
  rw [show align b fb sa fa 0 = _ from align_eq_append_ext b .U hf hfit, uval_append, uval_ext_U]
  simp [Nat.mul_comm]

theorem sval_align {b : WordBuf} {fb sa fa : Nat} (hf : fb ≤ fa) (hfit : b.length + (fa - fb) ≤ sa) :
    sval (align b fb sa fa (signFill b)) = sval b * 2 ^ (32 * (fa - fb)) := by
  rw [show align b fb sa fa (signFill b) = _ from align_eq_append_ext b .S hf hfit]
  exact (sval_replicate_zero_append ..).trans (by rw [sval_ext_S])

theorem signBit_align {b : WordBuf} {fb sa fa : Nat} (hf : fb ≤ fa) (hfit : b.length + (fa - fb) ≤ sa)
    (hb : 0 < b.length) : signBit (align b fb sa fa (signFill b)) = signBit b := by
  rw [show align b fb sa fa (signFill b) = _ from align_eq_append_ext b .S hf hfit, signBit_append, signBit_ext_S]
  refine List.ne_nil_of_length_pos ?_
  rw [ext_length] <;> omega

/-- Settles O24: an aligned operand is its extension above zero words. -/
theorem alignmentKeepsTheValue : Obligations.AlignmentKeepsTheValue := by
  intro b fb sa fa hf hfit
  refine ⟨uval_align hf hfit, sval_align hf hfit, ?_⟩
  rintro a rfl
  have hlen : a.length = (align b fb a.length fa 0).length := (align_length ..).symm
  constructor
  · rw [addMismatched, uval_addWords hlen, uval_align hf hfit]
  · rw [subMismatched, uval_subWords hlen, uval_align hf hfit]
    push_cast
    rfl

/-! ## The comparators (R53, R54) -/

/-- One weight position more: the buffers grow by a top word, and the scan looks at it first. -/
theorem align_succ (b : WordBuf) (fb n f : Nat) (fill : Word) :
    align b fb (n + 1) f fill = align b fb n f fill ++ [wordAt b fb (-f + n) fill] := by
  simp only [align_eq_map_wordAt, List.range_succ, List.map_append, List.map_cons, List.map_nil]

/-- The top word decides unless it is equal in both buffers. -/
theorem uval_append_lt_iff {a b : WordBuf} (h : b.length = a.length) (wa wb : Word) :
    uval (b ++ [wb]) < uval (a ++ [wa]) ↔ wb < wa ∨ wb = wa ∧ uval b < uval a := by
  have ha := uval_lt a
  have hb := uval_lt b
  rw [h] at hb
  rw [uval_append, uval_append, h, BitVec.lt_def, ← BitVec.toNat_inj]
  simp only [uval_cons, uval_nil, Nat.mul_zero, Nat.add_zero]
  rcases Nat.lt_trichotomy wb.toNat wa.toNat with hlt | heq | hgt
  · have : 2 ^ (32 * a.length) * (wb.toNat + 1) ≤ 2 ^ (32 * a.length) * wa.toNat := Nat.mul_le_mul_left _ hlt
    simp only [hlt, true_or, iff_true]
    linarith
  · simp [heq]
  · have : 2 ^ (32 * a.length) * (wa.toNat + 1) ≤ 2 ^ (32 * a.length) * wb.toNat := Nat.mul_le_mul_left _ hgt
    simp only [hgt.not_gt, hgt.ne', false_and, or_self, iff_false, not_lt]
    linarith

/-- The scan compares the two operands aligned to one buffer. -/
theorem scanGreater_iff (a : WordBuf) (fa : Nat) (filla : Word) (b : WordBuf) (fb : Nat) (fillb : Word) (f n : Nat) :
    scanGreater a fa filla b fb fillb (-f) n = true ↔
      uval (align b fb n f fillb) < uval (align a fa n f filla) := by
  induction n with
  | zero => simp [scanGreater, align]
  | succ n ih =>
    rw [align_succ, align_succ, uval_append_lt_iff (by simp), ← ih, scanGreater]
    generalize wordAt a fa (-f + n) filla = wa
    generalize wordAt b fb (-f + n) fillb = wb
    rcases Nat.lt_trichotomy wb.toNat wa.toNat with hlt | heq | hgt
    · simp [BitVec.lt_def, hlt]
    · obtain rfl := BitVec.eq_of_toNat_eq heq
      simp
    · simp [BitVec.lt_def, ← BitVec.toNat_inj, hgt, hgt.not_gt, hgt.ne']

/-- The scan of R53 reaches down to the larger of the two fractional offsets. -/
theorem scanLow_eq (fa fb : Nat) : scanLow fa fb = -(max fa fb : Nat) := by
  rw [scanLow]; omega

/-- From its lowest position the scan has room for the first operand. -/
theorem length_le_scanCount_left (a : WordBuf) (fa : Nat) (b : WordBuf) (fb : Nat) :
    a.length + (max fa fb - fa) ≤ scanCount a fa b fb := by
  rw [scanCount, scanLow]; omega

theorem length_le_scanCount_right (a : WordBuf) (fa : Nat) (b : WordBuf) (fb : Nat) :
    b.length + (max fa fb - fb) ≤ scanCount a fa b fb := by
  rw [scanCount, scanLow]; omega

/-- Values scaled to the larger offset compare as values scaled by both offsets. -/
theorem scaled_lt_iff (x y : Int) (fa fb : Nat) :
    y * 2 ^ (32 * (max fa fb - fb)) < x * 2 ^ (32 * (max fa fb - fa)) ↔
      y * 2 ^ (32 * fa) < x * 2 ^ (32 * fb) := by
  have hpos : (0 : Int) < 2 ^ (32 * (fa + fb - max fa fb)) := by positivity
  rw [← mul_lt_mul_iff_left₀ hpos, mul_assoc, mul_assoc, ← pow_add, ← pow_add,
    show 32 * (max fa fb - fb) + 32 * (fa + fb - max fa fb) = 32 * fa by omega,
    show 32 * (max fa fb - fa) + 32 * (fa + fb - max fa fb) = 32 * fb by omega]

theorem gtU_iff (a b : WordBuf) (fa fb : Nat) :
    gtU a fa b fb = true ↔ uval b * 2 ^ (32 * fa) < uval a * 2 ^ (32 * fb) := by
  rw [gtU, scanLow_eq, scanGreater_iff, uval_align (le_max_left ..) (length_le_scanCount_left ..),
    uval_align (le_max_right ..) (length_le_scanCount_right ..)]
  exact_mod_cast scaled_lt_iff (uval a) (uval b) fa fb

theorem sval_nonneg {b : WordBuf} (h : signBit b = false) : 0 ≤ sval b := by
  simp [sval, h]

theorem sval_neg {b : WordBuf} (h : signBit b = true) : sval b < 0 := by
  have := uval_lt b
  zify at this
  simpa [sval, h] using this

/-- Buffers of one length and one sign compare as their unsigned values do. -/
theorem uval_lt_iff_sval_lt {a b : WordBuf} (hl : b.length = a.length) (hs : signBit a = signBit b) :
    uval b < uval a ↔ sval b < sval a := by
  rw [sval_eq, sval_eq, hl, hs]
  omega

theorem gtS_iff {a b : WordBuf} (ha : 0 < a.length) (hb : 0 < b.length) (fa fb : Nat) :
    gtS a fa b fb = true ↔ sval b * 2 ^ (32 * fa) < sval a * 2 ^ (32 * fb) := by
  have hpa : (0 : Int) < 2 ^ (32 * fb) := by positivity
  have hpb : (0 : Int) < 2 ^ (32 * fa) := by positivity
  by_cases hs : signBit a = signBit b
  · have hla := length_le_scanCount_left a fa b fb
    have hlb := length_le_scanCount_right a fa b fb
    rw [gtS, if_neg (not_not.2 hs), scanLow_eq, scanGreater_iff, uval_lt_iff_sval_lt (by simp),
      sval_align (le_max_left ..) hla, sval_align (le_max_right ..) hlb, scaled_lt_iff]
    rw [signBit_align (le_max_left ..) hla ha, signBit_align (le_max_right ..) hlb hb, hs]
  rw [gtS, if_pos hs]
  cases hsb : signBit b with
  | false =>
    have hsa : signBit a = true := by simpa [hsb] using hs
    have := mul_neg_of_neg_of_pos (sval_neg hsa) hpa
    have := mul_nonneg (sval_nonneg hsb) hpb.le
    simp only [Bool.false_eq_true, false_iff]
    omega
  | true =>
    have hsa : signBit a = false := by simpa [hsb] using hs
    have := mul_neg_of_neg_of_pos (sval_neg hsb) hpb
    have := mul_nonneg (sval_nonneg hsa) hpa.le
    simp only [true_iff]
    omega

/-- Settles O23: the word scan compares the aligned operands, and alignment keeps the values. -/
theorem comparatorsOrderTheValues : Obligations.ComparatorsOrderTheValues := fun a b fa fb =>
  ⟨gtU_iff a b fa fb, gtU_iff b a fb fa, fun ha hb => ⟨gtS_iff ha hb fa fb, gtS_iff hb ha fb fa⟩⟩

/-! ## The shifters (R49 to R52): each pass moves every bit by one count, so the passes add up their counts -/

theorem eq_of_bitAt_eq {a b : WordBuf} (hl : a.length = b.length)
    (h : ∀ j < 32 * a.length, bitAt a j = bitAt b j) : a = b := by
  refine eq_of_uval_eq hl (Nat.eq_of_testBit_eq fun j => ?_)
  rcases Nat.lt_or_ge j (32 * a.length) with hj | hj
  · rw [← bitAt_eq_testBit, ← bitAt_eq_testBit, h j hj]
  · have hpow : 2 ^ (32 * a.length) ≤ 2 ^ j := Nat.pow_le_pow_right (by omega) hj
    rw [Nat.testBit_lt_two_pow ((uval_lt a).trans_le hpow), Nat.testBit_lt_two_pow ((hl ▸ uval_lt b).trans_le hpow)]

/-- `r` is `a` moved up by `c` bits, zeros entering below. -/
def ShiftsLeft (c : Nat) (a r : WordBuf) : Prop :=
  r.length = a.length ∧ ∀ j < 32 * a.length, bitAt r j = (decide (c ≤ j) && bitAt a (j - c))

/-- `r` is `a` moved down by `c` bits, copies of `f` entering at the top. -/
def ShiftsRight (f : Bool) (c : Nat) (a r : WordBuf) : Prop :=
  r.length = a.length ∧ ∀ j < 32 * a.length, bitAt r j = if j + c < 32 * a.length then bitAt a (j + c) else f

theorem ShiftsLeft.trans {c d : Nat} {a r s : WordBuf} (h : ShiftsLeft c a r) (h' : ShiftsLeft d r s) :
    ShiftsLeft (c + d) a s := by
  obtain ⟨hl, hbits⟩ := h
  obtain ⟨hl', hbits'⟩ := h'
  rw [hl] at hl' hbits'
  refine ⟨hl', fun j hj => ?_⟩
  rw [hbits' j hj, hbits (j - d) (by omega), Nat.sub_sub, Nat.add_comm d c, ← Bool.and_assoc, ← Bool.decide_and]
  congr 2
  exact propext (by omega)

theorem ShiftsRight.trans {f : Bool} {c d : Nat} {a r s : WordBuf} (h : ShiftsRight f c a r)
    (h' : ShiftsRight f d r s) : ShiftsRight f (c + d) a s := by
  obtain ⟨hl, hbits⟩ := h
  obtain ⟨hl', hbits'⟩ := h'
  rw [hl] at hl' hbits'
  refine ⟨hl', fun j hj => ?_⟩
  rw [hbits' j hj]
  by_cases hd : j + d < 32 * a.length
  · rw [if_pos hd, hbits (j + d) hd, Nat.add_assoc, Nat.add_comm d c]
  · rw [if_neg hd, if_neg (by omega)]

theorem ShiftsLeft.unique {c : Nat} {a r s : WordBuf} (h : ShiftsLeft c a r) (h' : ShiftsLeft c a s) : r = s := by
  obtain ⟨hl, hbits⟩ := h
  obtain ⟨hl', hbits'⟩ := h'
  exact eq_of_bitAt_eq (hl.trans hl'.symm) fun j hj => by rw [hbits j (hl ▸ hj), hbits' j (hl ▸ hj)]

theorem ShiftsRight.unique {f : Bool} {c : Nat} {a r s : WordBuf} (h : ShiftsRight f c a r)
    (h' : ShiftsRight f c a s) : r = s := by
  obtain ⟨hl, hbits⟩ := h
  obtain ⟨hl', hbits'⟩ := h'
  exact eq_of_bitAt_eq (hl.trans hl'.symm) fun j hj => by rw [hbits j (hl ▸ hj), hbits' j (hl ▸ hj)]

/-! ### Shifting by whole units, words or bytes -/

/-- Bit `j` of a list of units of `u` bits, least significant unit first; `bitAt` is the case of words. -/
def unitBit {u : Nat} (y : List (BitVec u)) (j : Nat) : Bool := (y.getD (j / u) 0).getLsbD (j % u)

theorem bitAt_eq_unitBit (b : WordBuf) (j : Nat) : bitAt b j = unitBit b j := rfl

theorem unitBit_map_range {u n j : Nat} (g : Nat → BitVec u) (hj : j < u * n) :
    unitBit ((List.range n).map g) j = (g (j / u)).getLsbD (j % u) := by
  have hk : j / u < n := Nat.div_lt_of_lt_mul hj
  rw [unitBit, List.getD_eq_getElem _ _ (by simpa using hk), List.getElem_map, List.getElem_range]

theorem unitBit_unitsLeft {u j : Nat} (s : Nat) (y : List (BitVec u)) (hj : j < u * y.length) :
    unitBit ((List.range y.length).map fun i => if s ≤ i then y.getD (i - s) 0 else 0) j =
      (decide (u * s ≤ j) && unitBit y (j - u * s)) := by
  have hu : 0 < u := Nat.pos_of_mul_pos_right (Nat.zero_lt_of_lt hj)
  have hs : s ≤ j / u ↔ u * s ≤ j := by rw [Nat.le_div_iff_mul_le hu, Nat.mul_comm]
  rw [unitBit_map_range _ hj]
  by_cases h : u * s ≤ j
  · rw [if_pos (hs.2 h), decide_eq_true h, Bool.true_and, unitBit, Nat.sub_mul_div, Nat.sub_mul_mod h]
  · rw [if_neg (mt hs.1 h), decide_eq_false h]
    simp

theorem unitBit_unitsRight {u j : Nat} (fill : BitVec u) (s : Nat) (y : List (BitVec u)) (hj : j < u * y.length) :
    unitBit ((List.range y.length).map fun i => y.getD (i + s) fill) j =
      if j + u * s < u * y.length then unitBit y (j + u * s) else fill.getLsbD (j % u) := by
  have hu : 0 < u := Nat.pos_of_mul_pos_right (Nat.zero_lt_of_lt hj)
  have hdiv : (j + u * s) / u = j / u + s := Nat.add_mul_div_left _ _ hu
  have hs : j / u + s < y.length ↔ j + u * s < u * y.length := by
    rw [← hdiv, Nat.div_lt_iff_lt_mul hu, Nat.mul_comm u y.length]
  rw [unitBit_map_range _ hj]
  by_cases h : j + u * s < u * y.length
  · rw [if_pos h, unitBit, hdiv, Nat.add_mul_mod_self_left, List.getD_eq_getElem _ _ (hs.2 h),
      List.getD_eq_getElem _ _ (hs.2 h)]
  · rw [if_neg h, List.getD_eq_default _ _ (not_lt.1 (mt hs.1 h))]

/-- The fill word of a shifter: 32 copies of the bit that enters at the top. -/
def fillWord (f : Bool) : Word := if f then 0xFFFFFFFF else 0

theorem signFill_eq_fillWord (b : WordBuf) : signFill b = fillWord (signBit b) := rfl

theorem fillWord_getLsbD {j : Nat} (f : Bool) (hj : j < 32) : (fillWord f).getLsbD j = f := by
  cases f with
  | false => simp [fillWord]
  | true => exact (BitVec.getLsbD_allOnes (v := 32)).trans (decide_eq_true hj)

theorem wordPassLeft_shifts (ws : Nat) (a : WordBuf) : ShiftsLeft (32 * ws) a (wordPassLeft ws a) := by
  refine ⟨by simp [wordPassLeft], fun j hj => ?_⟩
  rw [bitAt_eq_unitBit, bitAt_eq_unitBit, wordPassLeft, unitBit_unitsLeft ws a hj]

theorem wordPassRight_shifts (f : Bool) (ws : Nat) (a : WordBuf) :
    ShiftsRight f (32 * ws) a (wordPassRight (fillWord f) ws a) := by
  refine ⟨by simp [wordPassRight], fun j hj => ?_⟩
  rw [bitAt_eq_unitBit, bitAt_eq_unitBit, wordPassRight, unitBit_unitsRight (fillWord f) ws a hj,
    fillWord_getLsbD f (Nat.mod_lt j (by omega))]

/-! ### The byte view (R24) -/

@[simp] theorem bytesOf_length (a : WordBuf) : (bytesOf a).length = 4 * a.length := by
  induction a with
  | nil => rfl
  | cons w ws ih => simp only [bytesOf, List.length_cons, ih]; omega

theorem bytesOf_cons_getD_low (w : Word) (ws : WordBuf) {k : Nat} (hk : k < 4) :
    (bytesOf (w :: ws)).getD k 0 = w.extractLsb' (8 * k) 8 := by
  interval_cases k <;> rfl

theorem unitBit_bytesOf (a : WordBuf) (j : Nat) : unitBit (bytesOf a) j = bitAt a j := by
  induction a generalizing j with
  | nil => simp [unitBit, bitAt, bytesOf]
  | cons w ws ih =>
    rcases Nat.lt_or_ge j 32 with hj | hj
    · have hbit : j % 8 < 8 := Nat.mod_lt _ (by omega)
      rw [unitBit, bytesOf_cons_getD_low w ws (by omega), BitVec.getLsbD_extractLsb', decide_eq_true hbit,
        Bool.true_and, Nat.div_add_mod, bitAt, Nat.div_eq_of_lt hj, Nat.mod_eq_of_lt hj]
      rfl
    · obtain ⟨m, rfl⟩ := Nat.exists_eq_add_of_le' hj
      have hbyte : (m + 32) / 8 = m / 8 + 4 := by omega
      have hbit : (m + 32) % 8 = m % 8 := by omega
      have hrest := ih m
      simp only [unitBit, bitAt, bytesOf] at hrest ⊢
      simpa [hbyte, hbit] using hrest

theorem bytesOf_cons_append (b3 b2 b1 b0 : BitVec 8) (a : WordBuf) :
    bytesOf ((b3 ++ b2 ++ b1 ++ b0) :: a) = b0 :: b1 :: b2 :: b3 :: bytesOf a := by
  have skip {v : Nat} (hi : BitVec v) (lo : BitVec 8) (start : Nat) :
      (hi ++ lo).extractLsb' (start + 8) 8 = hi.extractLsb' start 8 :=
    BitVec.extractLsb'_append_eq_of_le (Nat.le_add_left ..)
  have h0 : (b3 ++ b2 ++ b1 ++ b0).extractLsb' 0 8 = b0 := BitVec.extractLsb'_append_eq_right
  have h1 : (b3 ++ b2 ++ b1 ++ b0).extractLsb' 8 8 = b1 := (skip _ _ 0).trans BitVec.extractLsb'_append_eq_right
  have h2 : (b3 ++ b2 ++ b1 ++ b0).extractLsb' 16 8 = b2 :=
    (skip _ _ 8).trans ((skip _ _ 0).trans BitVec.extractLsb'_append_eq_right)
  have h3 : (b3 ++ b2 ++ b1 ++ b0).extractLsb' 24 8 = b3 :=
    (skip _ _ 16).trans ((skip _ _ 8).trans BitVec.extractLsb'_append_eq_left)
  rw [bytesOf, h0, h1, h2, h3]

theorem ofBytes_spec {n : Nat} {y : List (BitVec 8)} (h : y.length = 4 * n) :
    (ofBytes y).length = n ∧ bytesOf (ofBytes y) = y := by
  induction n generalizing y with
  | zero =>
    obtain rfl := List.length_eq_zero_iff.1 h
    exact ⟨rfl, rfl⟩
  | succ n ih =>
    match y, h with
    | b0 :: b1 :: b2 :: b3 :: rest, h =>
      obtain ⟨hlen, hbytes⟩ := ih (Nat.add_right_cancel (m := 4) (k := 4 * n) h)
      exact ⟨congrArg Nat.succ hlen, by rw [ofBytes, bytesOf_cons_append, hbytes]⟩

theorem bitAt_ofBytes {n : Nat} {y : List (BitVec 8)} (h : y.length = 4 * n) (j : Nat) :
    bitAt (ofBytes y) j = unitBit y j := by
  obtain ⟨-, hbytes⟩ := ofBytes_spec h
  rw [← unitBit_bytesOf, hbytes]

theorem bytePassLeft_shifts (bs : Nat) (a : WordBuf) : ShiftsLeft (8 * bs) a (bytePassLeft bs a) := by
  have hl : ((List.range (bytesOf a).length).map fun j =>
      if bs ≤ j then (bytesOf a).getD (j - bs) 0 else 0).length = 4 * a.length := by simp
  obtain ⟨hlen, -⟩ := ofBytes_spec hl
  refine ⟨hlen, fun j hj => ?_⟩
  rw [bytePassLeft, bitAt_ofBytes hl, unitBit_unitsLeft bs _ (by rw [bytesOf_length]; omega), unitBit_bytesOf]

theorem bytePassRight_shifts (f : Bool) (bs : Nat) (a : WordBuf) :
    ShiftsRight f (8 * bs) a (bytePassRight (fillWord f) bs a) := by
  have hl : ((List.range (bytesOf a).length).map fun j =>
      (bytesOf a).getD (j + bs) ((fillWord f).extractLsb' 0 8)).length = 4 * a.length := by simp
  obtain ⟨hlen, -⟩ := ofBytes_spec hl
  have hfill (j : Nat) : ((fillWord f).extractLsb' 0 8).getLsbD (j % 8) = f := by
    have hj : j % 8 < 8 := Nat.mod_lt _ (by omega)
    rw [BitVec.getLsbD_extractLsb', fillWord_getLsbD f (by omega), decide_eq_true hj, Bool.true_and]
  refine ⟨hlen, fun j hj => ?_⟩
  rw [bytePassRight, bitAt_ofBytes hl, unitBit_unitsRight _ bs _ (by rw [bytesOf_length]; omega), unitBit_bytesOf,
    bytesOf_length, hfill, ← Nat.mul_assoc]

/-! ### Shifting by arithmetic: the bit passes and the closed forms -/

theorem shiftsLeft_of_uval {c : Nat} {a r : WordBuf} (hl : r.length = a.length)
    (h : uval r = uval a * 2 ^ c % 2 ^ (32 * a.length)) : ShiftsLeft c a r := by
  refine ⟨hl, fun j hj => ?_⟩
  rw [bitAt_eq_testBit, bitAt_eq_testBit, h, Nat.testBit_mod_two_pow, Nat.testBit_mul_two_pow, decide_eq_true hj,
    Bool.true_and]

/-- The bits that a right shift brings in are those of the words above the operand. -/
theorem bitAt_append_fill (a : WordBuf) (k : Nat) (f : Bool) {j : Nat} (hj : j < 32 * a.length + 32 * k) :
    bitAt (a ++ List.replicate k (fillWord f)) j = if j < 32 * a.length then bitAt a j else f := by
  unfold bitAt
  by_cases h : j < 32 * a.length
  · rw [if_pos h, List.getD_append _ _ _ _ (by omega)]
  · rw [if_neg h, List.getD_append_right _ _ _ _ (by omega), List.getD_replicate _ (by omega),
      fillWord_getLsbD f (by omega)]

theorem shiftsRight_of_uval {f : Bool} {c k : Nat} {a r : WordBuf} (hl : r.length = a.length) (hc : c ≤ 32 * k)
    (h : uval r = uval (a ++ List.replicate k (fillWord f)) / 2 ^ c % 2 ^ (32 * a.length)) : ShiftsRight f c a r := by
  refine ⟨hl, fun j hj => ?_⟩
  rw [bitAt_eq_testBit, h, Nat.testBit_mod_two_pow, Nat.testBit_div_two_pow, decide_eq_true hj, Bool.true_and,
    ← bitAt_eq_testBit, bitAt_append_fill a k f (by omega)]

@[simp] theorem bitPassLeft_length (bits carry : Nat) (a : WordBuf) : (bitPassLeft bits carry a).length = a.length := by
  induction a generalizing carry with
  | nil => rfl
  | cons w ws ih => simp [bitPassLeft, ih]

@[simp] theorem bitPassRight_length (fill : Word) (bits : Nat) (a : WordBuf) :
    (bitPassRight fill bits a).length = a.length := by
  induction a with
  | nil => rfl
  | cons w ws ih => simp [bitPassRight, ih]

/-- The carry out of a word is the quotient by `2^32` of what the word and the carry into it make. -/
theorem uval_bitPassLeft {bits carry : Nat} (a : WordBuf) (hb : bits ≤ 32) (hc : carry < 2 ^ bits) :
    uval (bitPassLeft bits carry a) = (uval a * 2 ^ bits + carry) % 2 ^ (32 * a.length) := by
  induction a generalizing carry with
  | nil => simp [bitPassLeft, Nat.mod_one]
  | cons w ws ih =>
    have hsplit : 2 ^ 32 = 2 ^ (32 - bits) * 2 ^ bits := by rw [← pow_add, Nat.sub_add_cancel hb]
    have hcarry : (w.toNat * 2 ^ bits + carry) / 2 ^ 32 = w.toNat / 2 ^ (32 - bits) := by
      rw [hsplit, Nat.mul_comm (2 ^ (32 - bits)), ← Nat.div_div_eq_div_mul, Nat.mul_comm w.toNat,
        Nat.mul_add_div (by positivity), Nat.div_eq_of_lt hc, Nat.add_zero]
    have hlt : w.toNat / 2 ^ (32 - bits) < 2 ^ bits := Nat.div_lt_of_lt_mul (hsplit ▸ w.isLt)
    have hval : uval (w :: ws) * 2 ^ bits + carry =
        w.toNat * 2 ^ bits + carry + 2 ^ 32 * (uval ws * 2 ^ bits) := by rw [uval_cons]; ring
    rw [bitPassLeft, uval_cons, ih hlt, List.length_cons, two_pow_words_succ, hval, Nat.mod_mul,
      Nat.add_mul_mod_self_left, Nat.add_mul_div_left _ _ (by omega), hcarry, BitVec.toNat_ofNat,
      Nat.add_comm (uval ws * _)]

/-- A word takes its vacated top bits from the words above it: dividing them, with the word, by `2^bits`. -/
theorem uval_bitPassRight {bits : Nat} (fill : Word) (a : WordBuf) (hb : bits ≤ 32) :
    uval (bitPassRight fill bits a) = uval (a ++ [fill]) / 2 ^ bits % 2 ^ (32 * a.length) := by
  induction a with
  | nil => simp [bitPassRight, Nat.mod_one]
  | cons w ws ih =>
    have hsplit : 2 ^ 32 = 2 ^ bits * 2 ^ (32 - bits) := by rw [← pow_add, Nat.add_sub_cancel' hb]
    have hnext : (ws.headD fill).toNat % 2 ^ bits = uval (ws ++ [fill]) % 2 ^ bits := by
      have hmod (x y : Nat) : (x + 2 ^ 32 * y) % 2 ^ bits = x % 2 ^ bits := by
        rw [hsplit, Nat.mul_assoc, Nat.add_mul_mod_self_left]
      cases ws with
      | nil => simp
      | cons v vs => rw [List.cons_append, uval_cons, hmod]; rfl
    rw [bitPassRight, List.cons_append, uval_cons, uval_cons, ih, List.length_cons, two_pow_words_succ,
      BitVec.toNat_ofNat, Nat.mod_mul, hnext]
    generalize uval (ws ++ [fill]) = above
    have hlow : w.toNat / 2 ^ bits + above % 2 ^ bits * 2 ^ (32 - bits) < 2 ^ 32 := by
      have hw : w.toNat / 2 ^ bits < 2 ^ (32 - bits) := Nat.div_lt_of_lt_mul (hsplit ▸ w.isLt)
      have habove : above % 2 ^ bits + 1 ≤ 2 ^ bits := Nat.mod_lt _ (by positivity)
      have := Nat.mul_le_mul_right (2 ^ (32 - bits)) habove
      rw [hsplit]
      linarith
    have hdiv : (w.toNat + 2 ^ 32 * above) / 2 ^ bits =
        w.toNat / 2 ^ bits + above % 2 ^ bits * 2 ^ (32 - bits) + 2 ^ 32 * (above / 2 ^ bits) := by
      rw [hsplit, Nat.mul_assoc, Nat.add_mul_div_left _ _ (by positivity)]
      conv_lhs => rw [← Nat.mod_add_div above (2 ^ bits)]
      ring
    rw [hdiv, Nat.add_mul_mod_self_left, Nat.add_mul_div_left _ _ (by omega),
      Nat.div_eq_of_lt hlow, Nat.zero_add]

theorem bitPassLeft_shifts {bits : Nat} (a : WordBuf) (hb : bits ≤ 32) : ShiftsLeft bits a (bitPassLeft bits 0 a) :=
  shiftsLeft_of_uval (bitPassLeft_length ..) (uval_bitPassLeft a hb (by positivity))

theorem bitPassRight_shifts {bits : Nat} (f : Bool) (a : WordBuf) (hb : bits ≤ 32) :
    ShiftsRight f bits a (bitPassRight (fillWord f) bits a) :=
  shiftsRight_of_uval (k := 1) (bitPassRight_length ..) hb (uval_bitPassRight (fillWord f) a hb)

theorem shlWords_shifts {a : WordBuf} {cnt : Nat} (h : cnt < 32 * a.length) : ShiftsLeft cnt a (shlWords a cnt) :=
  shiftsLeft_of_uval (shlWords_length ..) (by rw [shlWords, if_neg (by omega), uval_buf])

theorem shrUWords_shifts {a : WordBuf} {cnt : Nat} (h : cnt < 32 * a.length) :
    ShiftsRight false cnt a (shrUWords a cnt) := by
  refine shiftsRight_of_uval (shrUWords_length ..) h.le ?_
  rw [shrUWords, if_neg (by omega), uval_buf, uval_append]
  simp [fillWord]

/-- The floor of R51 is the shift of the operand sign-extended to twice its width. -/
theorem shrSWords_shifts {a : WordBuf} {cnt : Nat} (h : cnt < 32 * a.length) :
    ShiftsRight (signBit a) cnt a (shrSWords a cnt) := by
  refine shiftsRight_of_uval (shrSWords_length ..) h.le ?_
  have hext : ext (a.length + a.length) a .S = a ++ List.replicate a.length (fillWord (signBit a)) := by
    rw [ext, Nat.add_sub_cancel, ← signFill_eq_fillWord]
  have hsval := sval_ext_S (a.length + a.length) a
  rw [hext, sval_eq] at hsval
  have hlen : (a ++ List.replicate a.length (fillWord (signBit a))).length = a.length + a.length := by simp
  have hpow : (2 : Int) ^ (32 * (a.length + a.length)) =
      2 ^ cnt * (2 ^ (32 * a.length) * 2 ^ (32 * a.length - cnt)) := by
    rw [← pow_add, ← pow_add]; congr 1; omega
  rw [hlen, hpow, mul_assoc] at hsval
  zify
  rw [shrSWords, if_neg (by omega), uval_bufInt, ← hsval, Int.sub_mul_ediv_left _ _ (by positivity), mul_assoc,
    Int.sub_mul_emod_self_left]

/-! ### The passes in a row -/

theorem shiftLeftPasses_shifts (a : WordBuf) (cnt : Nat) : ShiftsLeft cnt a (shiftLeftPasses a cnt) := by
  have h := ((wordPassLeft_shifts (cnt / 32) a).trans (bytePassLeft_shifts (cnt % 32 / 8) _)).trans
    (bitPassLeft_shifts (bits := cnt % 8) _ (by omega))
  rwa [show 32 * (cnt / 32) + 8 * (cnt % 32 / 8) + cnt % 8 = cnt by omega] at h

theorem shiftRightPasses_shifts (f : Bool) (a : WordBuf) (cnt : Nat) :
    ShiftsRight f cnt a (shiftRightPasses (fillWord f) a cnt) := by
  have h := ((wordPassRight_shifts f (cnt / 32) a).trans (bytePassRight_shifts f (cnt % 32 / 8) _)).trans
    (bitPassRight_shifts (bits := cnt % 8) f _ (by omega))
  rwa [show 32 * (cnt / 32) + 8 * (cnt % 32 / 8) + cnt % 8 = cnt by omega] at h

/-- Settles O22: the counts of the passes add up to `cnt`, and a shift by `cnt` has one result. -/
theorem shifterPassesComposeToTheShift : Obligations.ShifterPassesComposeToTheShift := fun a cnt h =>
  ⟨(shiftLeftPasses_shifts a cnt).unique (shlWords_shifts h),
    (shiftRightPasses_shifts false a cnt).unique (shrUWords_shifts h),
    signFill_eq_fillWord a ▸ (shiftRightPasses_shifts (signBit a) a cnt).unique (shrSWords_shifts h)⟩

end Sys2Proof.WordArrays
end

section
/-! Proofs about the add and subtract commands: their results and carries, the plain integer lined up with word 1, the
negation (41_add_sub.md). -/

namespace Sys2Proof.AddSub

open Sys2Proof.Machine Sys2Proof.Safety Sys2Proof.WordArrays Sys2Proof.HostWrites

/-! ## The register content with a given raw value -/

/-- Integers that agree modulo `2^128` give one content. -/
theorem quadOfInt_congr {v w : Int} (h : v % 2 ^ 128 = w % 2 ^ 128) : quadOfInt v = quadOfInt w := by
  rw [quadOfInt, quadOfInt, bufInt, bufInt, show (2 : Int) ^ (32 * 4) = 2 ^ 128 from rfl, h]

theorem raw_quadOfInt (v : Int) : (raw (quadOfInt v) : Int) = v % 2 ^ 128 := by
  rw [quadOfInt, raw_quadOf (by simp [bufInt]), uval_bufInt]

theorem quadOfInt_natCast (v : Nat) : quadOfInt v = quadOfNat v := by
  apply eq_of_raw_eq
  zify
  rw [raw_quadOfInt, raw_quadOfNat]
  norm_cast

theorem quadOfInt_add_emod (u v : Int) : quadOfInt (u + v % 2 ^ 128) = quadOfInt (u + v) :=
  quadOfInt_congr (Int.add_emod_emod ..)

theorem quadOfInt_sub_emod (u v : Int) : quadOfInt (u - v % 2 ^ 128) = quadOfInt (u - v) :=
  quadOfInt_congr (Int.sub_emod_emod ..)

theorem writeX_writeX (s : State) (r : Reg) (p q : Quad) : (s.writeX r p).writeX r q = s.writeX r q := by
  simp [State.writeX]

/-! ## The commands of the adder and the subtractor -/

/-- A command that adds the 4-word buffer `b` to a register (R60). -/
theorem writeResultC_addWords (rd ra : Reg) {b : WordBuf} (hb : b.length = 4) (s : State) :
    writeResultC rd (addWords (s.xWords ra) b) s =
      .next ((s.writeX rd (quadOfNat (raw (s.x ra) + uval b))).setC (decide (2 ^ 128 ≤ raw (s.x ra) + uval b))) := by
  have hlen : (s.xWords ra).length = b.length := hb.symm
  have hout : quadOf (addWords (s.xWords ra) b).1 = quadOfNat (raw (s.x ra) + uval b) :=
    quadOf_eq_quadOfNat (addWords_length_of_eq hlen) (uval_addWords hlen)
  have hcarry : (addWords (s.xWords ra) b).2 = decide (2 ^ 128 ≤ raw (s.x ra) + uval b) := by
    have hexact : (addWords (s.xWords ra) b).2.toNat = (raw (s.x ra) + uval b) / 2 ^ 128 := carry_addWords hlen
    rw [Bool.eq_iff_iff, decide_eq_true_eq, ← Bool.toNat_eq_one, hexact]
    have := raw_lt (s.x ra)
    have := uval_lt b
    rw [hb] at this
    omega
  rw [writeResultC, hout, hcarry]

/-- A command that subtracts the 4-word buffer `b` from a register (R61). -/
theorem writeResultC_subWords (rd ra : Reg) {b : WordBuf} (hb : b.length = 4) (s : State) :
    writeResultC rd (subWords (s.xWords ra) b) s =
      .next ((s.writeX rd (quadOfInt (raw (s.x ra) - uval b))).setC (decide (raw (s.x ra) < uval b))) := by
  have hlen : (s.xWords ra).length = b.length := hb.symm
  have hout : quadOf (subWords (s.xWords ra) b).1 = quadOfInt (raw (s.x ra) - uval b) :=
    quadOf_eq_quadOfInt (subWords_length_of_eq hlen) (uval_subWords hlen)
  have hborrow : (subWords (s.xWords ra) b).2 = decide (raw (s.x ra) < uval b) := by
    rw [Bool.eq_iff_iff, decide_eq_true_eq]
    exact borrow_subWords_iff hlen
  rw [writeResultC, hout, hborrow]

/-- Settles O33: the second operand is the register's own four words. -/
theorem addAndSubtract : Obligations.AddAndSubtract := fun rd ra rb s =>
  ⟨writeResultC_addWords rd ra (quadWords_length (s.x rb)) s, writeResultC_subWords rd ra (quadWords_length (s.x rb)) s⟩

theorem uval_oneWords : uval oneWords = 2 ^ 32 := rfl

/-- Settles O37: the second operand is the number one, raw `2^32`. -/
theorem incrementAndDecrement : Obligations.IncrementAndDecrement := by
  intro rd ra s
  have hlen : oneWords.length = 4 := rfl
  have hinc := writeResultC_addWords rd ra hlen s
  have hdec := writeResultC_subWords rd ra hlen s
  rw [uval_oneWords] at hinc hdec
  exact ⟨hinc, hdec⟩

/-! ## The plain integer lined up with word 1 (R46, R62, R63) -/

theorem alignedImmU_length (imm : Word) : (alignedImmU imm).length = 4 := align_length ..

theorem alignedImmS_length (imm : Word) : (alignedImmS imm).length = 4 := align_length ..

theorem uval_alignedImmU (imm : Word) : uval (alignedImmU imm) = imm.toNat * 2 ^ 32 := by
  rw [alignedImmU, uval_align (by decide) (by simp)]
  simp

/-- `sval` of a 1-word buffer is the word's two's-complement value (R35). -/
theorem sval_singleton (w : Word) : sval [w] = w.toInt := by
  rw [sval_eq, signBit_eq_msb, BitVec.toInt_eq_msb_cond]
  cases h : w.msb <;> simp [h]

theorem immFill_eq_signFill (imm : Word) : immFill imm = signFill [imm] := by
  simp [immFill, signFill, signBit, bitAt]

theorem sval_alignedImmS (imm : Word) : sval (alignedImmS imm) = imm.toInt * 2 ^ 32 := by
  rw [alignedImmS, immFill_eq_signFill, sval_align (by decide) (by simp), sval_singleton]

theorem uval_alignedImmS (imm : Word) : (uval (alignedImmS imm) : Int) = imm.toInt * 2 ^ 32 % 2 ^ 128 := by
  rw [← sval_emod, alignedImmS_length, sval_alignedImmS]

/-- Settles O34: the S form adds the pattern of the signed integer, which is that integer modulo `2^128`. -/
theorem addPlainInteger : Obligations.AddPlainInteger := by
  intro rd ra imm s
  constructor
  · rw [← uval_alignedImmU]
    exact writeResultC_addWords rd ra (alignedImmU_length imm) s
  · have h := writeResultC_addWords rd ra (alignedImmS_length imm) s
    rw [← quadOfInt_natCast] at h
    rw [← quadOfInt_add_emod, ← uval_alignedImmS]
    exact_mod_cast h

/-- Settles O35: the S form subtracts the pattern of the signed integer, which is that integer modulo `2^128`. -/
theorem subtractPlainInteger : Obligations.SubtractPlainInteger := by
  intro rd ra imm s
  constructor
  · have h := writeResultC_subWords rd ra (alignedImmU_length imm) s
    rw [uval_alignedImmU] at h
    exact_mod_cast h
  · rw [← quadOfInt_sub_emod, ← uval_alignedImmS]
    exact_mod_cast writeResultC_subWords rd ra (alignedImmS_length imm) s

/-! ## The negation (R66) -/

theorem exec_neg (rd ra : Reg) (s : State) :
    exec (.neg rd ra) s = .next (s.writeX rd (quadOf (negWords (quadWords (s.x ra))))) := rfl

theorem quadOf_negWords (q : Quad) : quadOf (negWords (quadWords q)) = quadOfInt (-(raw q : Int)) := by
  refine quadOf_eq_quadOfInt (negWords_length _) ?_
  have hneg : uval (negWords (quadWords q)) = (2 ^ 128 - raw q) % 2 ^ 128 := uval_negWords (quadWords q)
  have := raw_lt q
  omega

theorem quadOf_negWords_negWords (q : Quad) :
    quadOf (negWords (quadWords (quadOf (negWords (quadWords q))))) = q := by
  rw [quadWords_quadOf (negWords_length _), negWords_negWords, quadOf_quadWords]

/-- `a + (-a)` is 0. -/
theorem quadOfNat_raw_neg_add (q : Quad) : quadOfNat (raw (quadOfInt (-(raw q : Int))) + raw q) = ⟨0, 0, 0, 0⟩ := by
  apply eq_of_raw_eq
  have hneg := raw_quadOfInt (-(raw q : Int))
  rw [raw_quadOfNat, show raw ⟨0, 0, 0, 0⟩ = 0 from rfl]
  omega

/-- Settles O36: the laws are those of the negated content, which the second command reads back from `rd`. -/
theorem negate : Obligations.Negate := by
  intro rd ra s
  have hneg : exec (.neg rd ra) s = .next (s.writeX rd (quadOfInt (-(raw (s.x ra) : Int)))) := by
    rw [exec_neg, quadOf_negWords]
  refine ⟨hneg, ?_, fun hne => ?_⟩
  · rw [runCommands_cons_of_next (exec_neg rd ra s), runCommands_cons_of_next (exec_neg rd rd _), writeX_x_self,
      quadOf_negWords_negWords, writeX_writeX, runCommands]
  · obtain ⟨hadd, -⟩ := addAndSubtract rd rd ra (s.writeX rd (quadOfInt (-(raw (s.x ra) : Int))))
    rw [writeX_x_self, writeX_x_ne s _ hne.symm, quadOfNat_raw_neg_add] at hadd
    rw [runCommands_cons_of_next hneg, runCommands_cons_of_next hadd]
    exact ⟨_, rfl, by simp⟩

end Sys2Proof.AddSub
end

section
/-! Proofs about the shifts, their round trips and the bitwise commands (42_shift_bitwise.md). -/

namespace Sys2Proof.ShiftBitwise

open Sys2Proof.Machine Sys2Proof.Safety Sys2Proof.WordArrays Sys2Proof.HostWrites Sys2Proof.AddSub

/-! ## The closed forms of the shifters for every count (R49 to R51)

A count of the buffer's width or more is its own case in the definitions; the formula of the smaller counts holds there
too. -/

theorem uval_lt_two_pow_of_le {a : WordBuf} {cnt : Nat} (h : 32 * a.length ≤ cnt) : uval a < 2 ^ cnt :=
  (uval_lt a).trans_le (Nat.pow_le_pow_right (by omega) h)

theorem uval_shlWords (a : WordBuf) (cnt : Nat) :
    uval (shlWords a cnt) = uval a * 2 ^ cnt % 2 ^ (32 * a.length) := by
  unfold shlWords
  split
  · next h =>
    have hdvd : 2 ^ (32 * a.length) ∣ uval a * 2 ^ cnt := (Nat.pow_dvd_pow 2 h).mul_left _
    rw [uval_buf, Nat.zero_mod, Nat.mod_eq_zero_of_dvd hdvd]
  · rw [uval_buf]

theorem uval_shrUWords (a : WordBuf) (cnt : Nat) : uval (shrUWords a cnt) = uval a / 2 ^ cnt := by
  unfold shrUWords
  split
  · next h => rw [uval_buf, Nat.zero_mod, Nat.div_eq_of_lt (uval_lt_two_pow_of_le h)]
  · rw [uval_buf, Nat.mod_eq_of_lt ((Nat.div_le_self ..).trans_lt (uval_lt a))]

/-- Of a buffer shifted by its width or more only the sign is left: the floor is 0 or -1. -/
theorem sval_ediv_two_pow_of_le {a : WordBuf} {cnt : Nat} (h : 32 * a.length ≤ cnt) :
    sval a / 2 ^ cnt = -(signBit a).toNat := by
  have hlt : (uval a : Int) < 2 ^ (32 * a.length) := by exact_mod_cast uval_lt a
  have hle : (2 : Int) ^ (32 * a.length) ≤ 2 ^ cnt := pow_le_pow_right₀ (by decide) h
  rw [sval_eq]
  cases signBit a with
  | false => simpa using Int.ediv_eq_zero_of_lt (by omega) (hlt.trans_le hle)
  | true => simpa using Int.ediv_eq_neg_one_of_neg_of_le (by omega) (by omega)

theorem uval_shrSWords (a : WordBuf) (cnt : Nat) :
    (uval (shrSWords a cnt) : Int) = sval a / 2 ^ cnt % 2 ^ (32 * a.length) := by
  unfold shrSWords
  split
  · next h =>
    have hpos : 0 < 2 ^ (32 * a.length) := by positivity
    rw [sval_ediv_two_pow_of_le h]
    cases signBit a with
    | false => simp [uval_buf]
    | true =>
      have hones : (-1 : Int) % 2 ^ (32 * a.length) = 2 ^ (32 * a.length) - 1 := by
        rw [← Int.add_emod_right, Int.emod_eq_of_lt (by zify at hpos; omega) (by omega)]
        ring
      simp [uval_buf, hones, Nat.mod_eq_of_lt (Nat.sub_lt hpos Nat.one_pos), Nat.cast_sub hpos]
  · rw [uval_bufInt]

/-! ## The shift commands (R70 to R72) -/

theorem writeResult_of_quadOf_eq {rd : Reg} {out : WordBuf} {q : Quad} (h : quadOf out = q) (s : State) :
    writeResult rd out s = .next (s.writeX rd q) := by
  rw [writeResult, h]

theorem exec_shl (rd ra : Reg) (imm : Word) (s : State) :
    exec (.shl rd ra imm) s = .next (s.writeX rd (quadOfNat (raw (s.x ra) * 2 ^ imm.toNat))) :=
  writeResult_of_quadOf_eq (quadOf_eq_quadOfNat (shlWords_length ..) (uval_shlWords (s.xWords ra) imm.toNat)) s

theorem exec_shrU (rd ra : Reg) (imm : Word) (s : State) :
    exec (.shrU rd ra imm) s = .next (s.writeX rd (quadOfNat (raw (s.x ra) / 2 ^ imm.toNat))) := by
  have hlt : raw (s.x ra) / 2 ^ imm.toNat < 2 ^ 128 := (Nat.div_le_self ..).trans_lt (raw_lt (s.x ra))
  have hval := uval_shrUWords (s.xWords ra) imm.toNat
  exact writeResult_of_quadOf_eq (quadOf_eq_quadOfNat (shrUWords_length ..) (hval.trans (Nat.mod_eq_of_lt hlt).symm)) s

theorem exec_shrS (rd ra : Reg) (imm : Word) (s : State) :
    exec (.shrS rd ra imm) s = .next (s.writeX rd (quadOfInt (rawSigned (s.x ra) / 2 ^ imm.toNat))) :=
  writeResult_of_quadOf_eq (quadOf_eq_quadOfInt (shrSWords_length ..) (uval_shrSWords (s.xWords ra) imm.toNat)) s

/-- Settles O38: the closed forms hold for every count, so a count of 128 or more is no case of its own. -/
theorem shifts : Obligations.Shifts := fun rd ra imm s =>
  ⟨exec_shl rd ra imm s, exec_shrU rd ra imm s, exec_shrS rd ra imm s⟩

/-! ## Round trips (property P3 of 95_test_vectors.md) -/

theorem quadOfNat_shl_shrU {q : Quad} {cnt : Nat} (h : raw q * 2 ^ cnt < 2 ^ 128) :
    quadOfNat (raw (quadOfNat (raw q * 2 ^ cnt)) / 2 ^ cnt) = q := by
  rw [raw_quadOfNat, Nat.mod_eq_of_lt h, Nat.mul_div_cancel _ (by positivity), quadOfNat_raw]

/-- The sign's weight is a multiple of `2^cnt`, so it comes back as a multiple of `2^128` and the unsigned value decides
the result. -/
theorem quadOfNat_shrS_shl (q : Quad) {cnt : Nat} (h : cnt ≤ 128) :
    quadOfNat (raw (quadOfInt (rawSigned q / 2 ^ cnt)) * 2 ^ cnt) = quadOfNat (raw q - raw q % 2 ^ cnt) := by
  have hsplit : (2 : Int) ^ 128 = 2 ^ cnt * 2 ^ (128 - cnt) := by rw [← pow_add, Nat.add_sub_cancel' h]
  have hsigned : rawSigned q = raw q - 2 ^ 128 * (signBit (quadWords q)).toNat := sval_eq (quadWords q)
  have hfloor : rawSigned q / 2 ^ cnt * 2 ^ cnt =
      raw q / 2 ^ cnt * 2 ^ cnt - 2 ^ 128 * (signBit (quadWords q)).toNat := by
    rw [hsigned, hsplit, mul_assoc, Int.sub_mul_ediv_left _ _ (by positivity)]
    ring
  rw [← Nat.div_mul_self_eq_mod_sub_self, ← quadOfInt_natCast, ← quadOfInt_natCast]
  apply quadOfInt_congr
  rw [Nat.cast_mul, raw_quadOfInt, Int.mul_emod, Int.emod_emod, ← Int.mul_emod]
  push_cast
  rw [hfloor]
  exact Int.sub_mul_emod_self_left ..

/-- Settles O40: the second command reads back what the first one wrote to `rd`. -/
theorem shiftRoundTrips : Obligations.ShiftRoundTrips := by
  intro rd ra imm s
  refine ⟨fun hfits => ?_, fun hcnt => ?_⟩
  · rw [runCommands_cons_of_next (exec_shl rd ra imm s), runCommands_cons_of_next (exec_shrU rd rd imm _),
      writeX_x_self, quadOfNat_shl_shrU hfits, writeX_writeX, runCommands]
  · rw [runCommands_cons_of_next (exec_shrS rd ra imm s), runCommands_cons_of_next (exec_shl rd rd imm _),
      writeX_x_self, quadOfNat_shrS_shl _ (by omega), writeX_writeX, runCommands]

/-! ## The bitwise commands (R73 to R76) -/

theorem testBit_raw (q : Quad) (j : Nat) : (raw q).testBit j = bitAt (quadWords q) j :=
  (bitAt_eq_testBit ..).symm

/-- An operation that acts on each bit of a word acts on each bit of a buffer. -/
theorem bitAt_zipWith {f : Word → Word → Word} {g : Bool → Bool → Bool}
    (hf : ∀ x y i, (f x y).getLsbD i = g (x.getLsbD i) (y.getLsbD i)) {a b : WordBuf} (hl : a.length = b.length)
    {j : Nat} (hj : j < 32 * a.length) : bitAt (List.zipWith f a b) j = g (bitAt a j) (bitAt b j) := by
  have ha : j / 32 < a.length := Nat.div_lt_of_lt_mul hj
  have hb : j / 32 < b.length := hl ▸ ha
  have hz : j / 32 < (List.zipWith f a b).length := by simp [ha, hb]
  rw [bitAt, bitAt, bitAt, List.getD_eq_getElem _ _ hz, List.getD_eq_getElem _ _ ha, List.getD_eq_getElem _ _ hb,
    List.getElem_zipWith, hf]

theorem testBit_raw_zipWith {f : Word → Word → Word} {g : Bool → Bool → Bool}
    (hf : ∀ x y i, (f x y).getLsbD i = g (x.getLsbD i) (y.getLsbD i)) (p q : Quad) {j : Nat} (hj : j < 128) :
    (raw (quadOf (List.zipWith f (quadWords p) (quadWords q)))).testBit j =
      g ((raw p).testBit j) ((raw q).testBit j) := by
  rw [testBit_raw, testBit_raw, testBit_raw, quadWords_quadOf (by simp)]
  exact bitAt_zipWith hf (a := quadWords p) (b := quadWords q) rfl hj

/-- The inverse is what is missing to all ones. -/
theorem testBit_raw_invert (q : Quad) {j : Nat} (hj : j < 128) :
    (raw (quadOf ((quadWords q).map fun w => w ^^^ 0xFFFFFFFF))).testBit j = !(raw q).testBit j := by
  have hsum : raw q + uval ((quadWords q).map fun w => w ^^^ 0xFFFFFFFF) + 1 = 2 ^ 128 := uval_invert (quadWords q)
  have hinv : uval ((quadWords q).map fun w => w ^^^ 0xFFFFFFFF) = 2 ^ 128 - (raw q + 1) := by omega
  rw [raw_quadOf (by simp), hinv, Nat.testBit_two_pow_sub_succ (raw_lt q), decide_eq_true hj, Bool.true_and]

/-- Settles O39: each command works word by word, and its word operation bit by bit. -/
theorem bitwiseCommands : Obligations.BitwiseCommands := fun _ _ _ _ =>
  ⟨_, _, _, _, rfl, rfl, rfl, rfl, fun _ hj =>
    ⟨testBit_raw_zipWith (fun _ _ _ => BitVec.getLsbD_and) _ _ hj,
      testBit_raw_zipWith (fun _ _ _ => BitVec.getLsbD_or) _ _ hj,
      testBit_raw_zipWith (fun _ _ _ => BitVec.getLsbD_xor) _ _ hj,
      testBit_raw_invert _ hj⟩⟩

end Sys2Proof.ShiftBitwise
end

section
/-! Proofs about the comparisons, the tests and the bit access (43_compare_test.md). -/

namespace Sys2Proof.CompareTest

open Sys2Proof.Machine Sys2Proof.WordArrays Sys2Proof.AddSub Sys2Proof.ShiftBitwise

theorem writeTest_of_eq {b c : Bool} (h : b = c) (s : State) : writeTest b s = .next (s.setT c) := by
  rw [writeTest, h]

/-! ## Equality (R77, R78) -/

theorem quadWords_inj {p q : Quad} : quadWords p = quadWords q ↔ p = q := by
  refine ⟨fun h => ?_, congrArg quadWords⟩
  rw [← quadOf_quadWords p, h, quadOf_quadWords]

theorem quadWords_beq (p q : Quad) : (quadWords p == quadWords q) = decide (p = q) := by
  rw [Bool.eq_iff_iff, beq_iff_eq, decide_eq_true_eq, quadWords_inj]

theorem not_quadWords_beq (p q : Quad) : (!(quadWords p == quadWords q)) = decide (p ≠ q) := by
  rw [quadWords_beq, ← decide_not]

/-- Settles O41: two contents are equal exactly when their four words are. -/
theorem equalityCompares : Obligations.EqualityCompares := fun ra rb s =>
  ⟨writeTest_of_eq (quadWords_beq (s.x ra) (s.x rb)) s, writeTest_of_eq (not_quadWords_beq (s.x ra) (s.x rb)) s⟩

/-! ## Order (R79 to R86): both operands have one fractional word, so the scaling of R53 cancels -/

theorem gtU_quadWords (p q : Quad) : gtU (quadWords p) 1 (quadWords q) 1 = decide (raw q < raw p) := by
  rw [Bool.eq_iff_iff, gtU_iff, decide_eq_true_eq]
  exact Nat.mul_lt_mul_right (by positivity)

theorem gtS_quadWords (p q : Quad) : gtS (quadWords p) 1 (quadWords q) 1 = decide (rawSigned q < rawSigned p) := by
  rw [Bool.eq_iff_iff, gtS_iff (by simp) (by simp), decide_eq_true_eq]
  exact Int.mul_lt_mul_right (by positivity)

theorem not_gtU_quadWords (p q : Quad) : (!gtU (quadWords p) 1 (quadWords q) 1) = decide (raw p ≤ raw q) := by
  rw [gtU_quadWords, ← decide_not, decide_eq_decide, not_lt]

theorem not_gtS_quadWords (p q : Quad) :
    (!gtS (quadWords p) 1 (quadWords q) 1) = decide (rawSigned p ≤ rawSigned q) := by
  rw [gtS_quadWords, ← decide_not, decide_eq_decide, not_lt]

/-- Settles O42: less-than is greater-than with the operands exchanged, and the other two are their negations. -/
theorem unsignedCompares : Obligations.UnsignedCompares := fun ra rb s =>
  ⟨writeTest_of_eq (gtU_quadWords (s.x rb) (s.x ra)) s, writeTest_of_eq (gtU_quadWords (s.x ra) (s.x rb)) s,
    writeTest_of_eq (not_gtU_quadWords (s.x ra) (s.x rb)) s, writeTest_of_eq (not_gtU_quadWords (s.x rb) (s.x ra)) s⟩

/-- Settles O43: the four commands are one comparator, its operands exchanged or its answer negated. -/
theorem signedCompares : Obligations.SignedCompares := fun ra rb s =>
  ⟨writeTest_of_eq (gtS_quadWords (s.x rb) (s.x ra)) s, writeTest_of_eq (gtS_quadWords (s.x ra) (s.x rb)) s,
    writeTest_of_eq (not_gtS_quadWords (s.x ra) (s.x rb)) s, writeTest_of_eq (not_gtS_quadWords (s.x rb) (s.x ra)) s⟩

/-! ## The law of the comparisons (R93) -/

theorem raw_injective : Function.Injective raw := fun _ _ => eq_of_raw_eq

/-- The signed value determines the content: it is the raw value modulo `2^128`. -/
theorem rawSigned_injective : Function.Injective rawSigned := by
  intro p q h
  have hraw (r : Quad) : rawSigned r % 2 ^ 128 = raw r := sval_emod (quadWords r)
  apply eq_of_raw_eq
  zify
  rw [← hraw p, ← hraw q, h]

section
variable {α : Type} [LinearOrder α] {f : Quad → α}

/-- Of contents ordered by a value that determines them, exactly one of less, equal, greater holds. -/
theorem toNat_trichotomy (hf : Function.Injective f) (p q : Quad) :
    (decide (f p < f q)).toNat + (decide (p = q)).toNat + (decide (f p > f q)).toNat = 1 := by
  rcases lt_trichotomy (f p) (f q) with hlt | heq | hgt
  · simp [hlt, hlt.not_gt, ne_of_apply_ne f hlt.ne]
  · simp [hf heq]
  · simp [hgt, hgt.not_gt, ne_of_apply_ne f hgt.ne']

theorem decide_le_eq_lt_or_eq (hf : Function.Injective f) (p q : Quad) :
    decide (f p ≤ f q) = (decide (f p < f q) || decide (p = q)) := by
  rw [← Bool.decide_or, decide_eq_decide, le_iff_lt_or_eq, hf.eq_iff]

theorem decide_ge_eq_gt_or_eq (hf : Function.Injective f) (p q : Quad) :
    decide (f p ≥ f q) = (decide (f p > f q) || decide (p = q)) := by
  rw [← Bool.decide_or, decide_eq_decide, ge_iff_le, le_iff_lt_or_eq, hf.eq_iff, eq_comm, gt_iff_lt]

end

/-- The sign of a content is the top bit of its word 3. -/
theorem signBit_quadWords (q : Quad) : signBit (quadWords q) = q.w3.getLsbD 31 := by
  simp [signBit, bitAt, quadWords]

theorem rawSigned_lt_iff_of_sign_eq {p q : Quad} (h : p.w3.getLsbD 31 = q.w3.getLsbD 31) :
    rawSigned p < rawSigned q ↔ raw p < raw q := by
  rw [← signBit_quadWords, ← signBit_quadWords] at h
  exact (uval_lt_iff_sval_lt (a := quadWords q) (b := quadWords p) rfl h.symm).symm

theorem rawSigned_lt_of_sign {p q : Quad} (hp : signBit (quadWords p) = true) (hq : signBit (quadWords q) = false) :
    rawSigned p < rawSigned q :=
  (sval_neg hp).trans_le (sval_nonneg hq)

theorem raw_lt_of_sign {p q : Quad} (hp : signBit (quadWords p) = false) (hq : signBit (quadWords q) = true) :
    raw p < raw q := by
  rw [signBit_eq_decide (by simp)] at hp hq
  exact (not_le.1 (of_decide_eq_false hp)).trans_le (of_decide_eq_true hq)

/-- The one with the sign bit set is the smaller signed value and the larger unsigned one. -/
theorem rawSigned_lt_iff_of_sign_ne {p q : Quad} (h : p.w3.getLsbD 31 ≠ q.w3.getLsbD 31) :
    rawSigned p < rawSigned q ↔ ¬ raw p < raw q := by
  rw [← signBit_quadWords, ← signBit_quadWords] at h
  cases hp : signBit (quadWords p) with
  | true =>
    have hq : signBit (quadWords q) = false := by simpa [hp] using h
    exact iff_of_true (rawSigned_lt_of_sign hp hq) (raw_lt_of_sign hq hp).not_gt
  | false =>
    have hq : signBit (quadWords q) = true := by simpa [hp] using h
    exact iff_of_false (rawSigned_lt_of_sign hq hp).not_gt (not_not.2 (raw_lt_of_sign hp hq))

/-- Settles O44: both values determine the content, and a content with the sign bit set is below the others in one order
and above them in the other. -/
theorem comparisonTrichotomy : Obligations.ComparisonTrichotomy := by
  intro ra rb s
  obtain ⟨heq, hne⟩ := equalityCompares ra rb s
  obtain ⟨hltU, hgtU, hleU, hgeU⟩ := unsignedCompares ra rb s
  obtain ⟨hltS, hgtS, hleS, hgeS⟩ := signedCompares ra rb s
  rw [decide_not] at hne
  rw [decide_le_eq_lt_or_eq raw_injective] at hleU
  rw [decide_ge_eq_gt_or_eq raw_injective] at hgeU
  rw [decide_le_eq_lt_or_eq rawSigned_injective] at hleS
  rw [decide_ge_eq_gt_or_eq rawSigned_injective] at hgeS
  refine ⟨_, _, _, _, _, heq, hne, hltU, hgtU, hltS, hgtS, hleU, hgeU, hleS, hgeS,
    toNat_trichotomy raw_injective _ _, toNat_trichotomy rawSigned_injective _ _, fun hsign => ?_, fun hsign => ?_⟩
  · exact ⟨decide_eq_decide.2 (rawSigned_lt_iff_of_sign_eq hsign),
      decide_eq_decide.2 (rawSigned_lt_iff_of_sign_eq hsign.symm)⟩
  · rw [← decide_not, ← decide_not]
    exact ⟨decide_eq_decide.2 (rawSigned_lt_iff_of_sign_ne hsign),
      decide_eq_decide.2 (rawSigned_lt_iff_of_sign_ne hsign.symm)⟩

/-! ## Tests (R87 to R91) -/

theorem isZero_quadWords (q : Quad) : isZero (quadWords q) = decide (q = ⟨0, 0, 0, 0⟩) := by
  rw [isZero_eq_decide, decide_eq_decide]
  exact ⟨fun h => eq_of_raw_eq h, congrArg raw⟩

/-- Settles O45: the end bits are bits 127 and 0 of the raw value. -/
theorem zeroAndEndBitTests : Obligations.ZeroAndEndBitTests := fun ra s =>
  ⟨writeTest_of_eq (isZero_quadWords (s.x ra)) s, writeTest_of_eq (testBit_raw (s.x ra) 127).symm s,
    writeTest_of_eq (testBit_raw (s.x ra) 0).symm s⟩

theorem getBit_quadWords_U (q : Quad) (i : Int) :
    getBit (quadWords q) i .U = (decide (0 ≤ i) && decide (i < 128) && (raw q).testBit i.toNat) := by
  rw [testBit_raw, getBit, quadWords_length]
  rcases lt_or_ge i 0 with hneg | hnonneg
  · simp [hneg]
  rcases lt_or_ge i 128 with hlt | hge
  · simp [hnonneg, hlt, hnonneg.not_gt, hlt.not_ge]
  · simp [hge, hnonneg.not_gt, hge.not_gt]

theorem getBit_quadWords_S (q : Quad) (i : Int) :
    getBit (quadWords q) i .S =
      if 128 ≤ i then (raw q).testBit 127 else decide (0 ≤ i) && (raw q).testBit i.toNat := by
  rw [testBit_raw, testBit_raw, getBit, quadWords_length]
  rcases lt_or_ge i 0 with hneg | hnonneg
  · simp [hneg, show ¬128 ≤ i by omega]
  rcases lt_or_ge i 128 with hlt | hge
  · simp [hnonneg, hnonneg.not_gt, hlt.not_ge]
  · simp [hge, hnonneg.not_gt, signBit]

/-- Settles O46: `GETBIT` at the index that `IW` stands for. -/
theorem indexedBitTests : Obligations.IndexedBitTests := by
  intro ra imm s
  rw [← sval_singleton imm]
  exact ⟨writeTest_of_eq (getBit_quadWords_U (s.x ra) (bitIndex imm)) s,
    writeTest_of_eq (getBit_quadWords_S (s.x ra) (bitIndex imm)) s⟩

/-! ## The top bit (R92) -/

/-- The mask of R56 has bit 31 and no other. -/
theorem getLsbD_topBit : ∀ i < 32, (0x80000000 : Word).getLsbD i = decide (i = 31) := by decide

theorem bitAt_setMsb {a : WordBuf} {j : Nat} (hj : j < 32 * a.length) :
    bitAt (setMsb a) j = (bitAt a j || decide (j = 32 * a.length - 1)) := by
  have hword : j / 32 < a.length := Nat.div_lt_of_lt_mul hj
  have hset : j / 32 < (setMsb a).length := by rwa [setMsb_length]
  rw [bitAt, bitAt, List.getD_eq_getElem _ _ hset, List.getD_eq_getElem _ _ hword]
  simp only [setMsb, List.getElem_set]
  split
  · next htop =>
    have hbit : j % 32 = 31 ↔ j = 32 * a.length - 1 := by omega
    rw [htop, List.getD_eq_getElem _ _ hword, BitVec.getLsbD_or, getLsbD_topBit _ (Nat.mod_lt j (by decide)),
      decide_eq_decide.2 hbit]
  · next hother =>
    have : j ≠ 32 * a.length - 1 := by omega
    simp [this]

theorem testBit_raw_setMsb (q : Quad) {j : Nat} (hj : j < 128) :
    (raw (quadOf (setMsb (quadWords q)))).testBit j = ((raw q).testBit j || decide (j = 127)) := by
  rw [testBit_raw, testBit_raw, quadWords_quadOf (by simp)]
  exact bitAt_setMsb (a := quadWords q) hj

/-- Settles O47: `SETMSB` is an OR with bit 127. -/
theorem setTopBit : Obligations.SetTopBit := by
  refine fun rd ra s => ⟨quadOf (setMsb (quadWords (s.x ra))), rfl, ?_, fun j hj => ?_⟩
  · simp [testBit_raw_setMsb]
  · simp [testBit_raw_setMsb _ (show j < 128 by omega), hj.ne]

end Sys2Proof.CompareTest
end

section
/-! Proofs about the shift-and-add multiplier and the multiply commands (44_multiply.md). -/

namespace Sys2Proof.Multiply

open Sys2Proof.Machine Sys2Proof.WordArrays Sys2Proof.AddSub Sys2Proof.ShiftBitwise

/-! ## The reading of a buffer (R95) -/

/-- Either reading of a buffer is its unsigned value modulo `2^(32n)`. -/
theorem reading_modEq_uval (v : Variant) (b : WordBuf) : reading v b ≡ uval b [ZMOD 2 ^ (32 * b.length)] := by
  cases v with
  | U => exact Int.ModEq.refl _
  | S => rw [reading, ← sval_emod]; exact (Int.mod_modEq ..).symm

theorem reading_ext (m : Nat) (b : WordBuf) (v : Variant) : reading v (ext m b v) = reading v b := by
  cases v with
  | U => rw [reading, reading, uval_ext_U]
  | S => rw [reading, reading, sval_ext_S]

/-! ## The scanned bits (R55) -/

theorem getBit_inside {a : WordBuf} {i : Nat} (v : Variant) (h : i < 32 * a.length) :
    getBit a i v = bitAt a i := by
  simp [getBit, show ¬ 32 * (a.length : Int) ≤ i by omega]

theorem getBit_above_U {a : WordBuf} {i : Nat} (h : 32 * a.length ≤ i) : getBit a i .U = false := by
  simp [getBit, show 32 * (a.length : Int) ≤ i by omega]

theorem getBit_above_S {a : WordBuf} {i : Nat} (h : 32 * a.length ≤ i) : getBit a i .S = signBit a := by
  simp [getBit, show 32 * (a.length : Int) ≤ i by omega, show ¬ (i : Int) < 0 by omega]

theorem bitAt_toNat (a : WordBuf) (i : Nat) : ((bitAt a i).toNat : Int) = uval a / 2 ^ i % 2 := by
  rw [bitAt_eq_testBit, Nat.toNat_testBit]
  norm_cast

/-- A multiple of a higher power of two does not reach the bit at position `i`. -/
theorem bit_congr {x y : Int} {i n : Nat} (hi : i < n) (h : x ≡ y [ZMOD 2 ^ n]) : x / 2 ^ i % 2 = y / 2 ^ i % 2 := by
  obtain ⟨k, rfl⟩ := Nat.exists_eq_add_of_lt hi
  obtain ⟨c, hc⟩ := h.dvd
  have hy : y = x + 2 ^ i * (2 * (2 ^ k * c)) := by rw [← sub_eq_iff_eq_add', hc]; ring
  rw [hy, Int.add_mul_ediv_left _ _ (by positivity), Int.add_mul_emod_self_left]

/-- The bit scanned at position `i` is bit `i` of the reading, which the variant's extension continues without end. -/
theorem getBit_toNat (a : WordBuf) (i : Nat) (v : Variant) :
    ((getBit a i v).toNat : Int) = reading v a / 2 ^ i % 2 := by
  rcases lt_or_ge i (32 * a.length) with hin | hout
  · rw [getBit_inside v hin, bitAt_toNat, bit_congr hin (reading_modEq_uval v a)]
  · cases v with
    | U =>
      have hlt : (uval a : Int) < 2 ^ i := by exact_mod_cast uval_lt_two_pow_of_le hout
      rw [getBit_above_U hout, reading, Int.ediv_eq_zero_of_lt (by omega) hlt]
      rfl
    | S =>
      rw [getBit_above_S hout, reading, sval_ediv_two_pow_of_le hout]
      cases signBit a <;> rfl

/-- The `left + 1` bits of the reading from position `i` on: the bit scanned there, then the bits above it. -/
theorem reading_bits_succ (a : WordBuf) (i left : Nat) (v : Variant) :
    reading v a / 2 ^ i % 2 ^ (left + 1) =
      (getBit a i v).toNat + 2 * (reading v a / 2 ^ (i + 1) % 2 ^ left) := by
  have hnext : reading v a / 2 ^ (i + 1) = reading v a / 2 ^ i / 2 := by
    rw [Int.ediv_ediv_of_nonneg (pow_nonneg (by decide) i), pow_succ]
  have hpow : (2 : Int) ^ (left + 1) = 2 * 2 ^ left := pow_succ' ..
  rw [getBit_toNat, hnext, Int.emod_def, hpow, ← Int.ediv_ediv_of_nonneg (by decide), Int.emod_def, Int.emod_def]
  ring

/-! ## The loop (R94) -/

theorem uval_addWords_modEq {a b : WordBuf} (h : a.length = b.length) :
    (uval (addWords a b).1 : Int) ≡ uval a + uval b [ZMOD 2 ^ (32 * a.length)] := by
  rw [uval_addWords h]
  push_cast
  exact Int.mod_modEq ..

theorem uval_shlWords_one_modEq (a : WordBuf) :
    (uval (shlWords a 1) : Int) ≡ uval a * 2 [ZMOD 2 ^ (32 * a.length)] := by
  rw [uval_shlWords]
  push_cast
  exact Int.mod_modEq ..

/-- The accumulator after one round: the shifted copy is added where the scanned bit is set. -/
def accStep (acc sh : WordBuf) (bit : Bool) : WordBuf := if bit then (addWords acc sh).1 else acc

theorem multiplyLoop_succ (a : WordBuf) (v : Variant) (left i : Nat) (acc sh : WordBuf) :
    multiplyLoop a v (left + 1) i acc sh =
      multiplyLoop a v left (i + 1) (accStep acc sh (getBit a i v)) (shlWords sh 1) := rfl

theorem accStep_length {acc sh : WordBuf} (h : acc.length = sh.length) (bit : Bool) :
    (accStep acc sh bit).length = acc.length := by
  cases bit with
  | false => rfl
  | true => exact addWords_length_of_eq h

theorem uval_accStep_modEq {acc sh : WordBuf} (h : acc.length = sh.length) (bit : Bool) :
    (uval (accStep acc sh bit) : Int) ≡ uval acc + uval sh * bit.toNat [ZMOD 2 ^ (32 * acc.length)] := by
  cases bit with
  | false => simp [accStep]
  | true => simpa [accStep] using uval_addWords_modEq h

theorem multiplyLoop_length (a : WordBuf) (v : Variant) (left i : Nat) {acc sh : WordBuf}
    (h : acc.length = sh.length) : (multiplyLoop a v left i acc sh).length = acc.length := by
  induction left generalizing i acc sh with
  | zero => rfl
  | succ left ih =>
    have hacc := accStep_length h (getBit a i v)
    rw [multiplyLoop_succ, ih _ (by rw [hacc, shlWords_length, h]), hacc]

/-- The loop's invariant: the rounds still to run add the shifted copy times the bits still to be scanned. -/
theorem uval_multiplyLoop_modEq (a : WordBuf) (v : Variant) (left i : Nat) {acc sh : WordBuf}
    (h : acc.length = sh.length) :
    (uval (multiplyLoop a v left i acc sh) : Int) ≡
      uval acc + uval sh * (reading v a / 2 ^ i % 2 ^ left) [ZMOD 2 ^ (32 * acc.length)] := by
  induction left generalizing i acc sh with
  | zero => simp [multiplyLoop]
  | succ left ih =>
    have hlen := accStep_length h (getBit a i v)
    have hacc := uval_accStep_modEq h (getBit a i v)
    have hsh := uval_shlWords_one_modEq sh
    have hrest := ih (i + 1) (acc := accStep acc sh (getBit a i v)) (sh := shlWords sh 1)
      (by rw [hlen, shlWords_length, h])
    rw [hlen] at hrest
    rw [← h] at hsh
    rw [multiplyLoop_succ, reading_bits_succ]
    calc (uval (multiplyLoop a v left (i + 1) (accStep acc sh (getBit a i v)) (shlWords sh 1)) : Int)
      _ ≡ _ [ZMOD _] := hrest
      _ ≡ (uval acc + uval sh * (getBit a i v).toNat) + uval sh * 2 * (reading v a / 2 ^ (i + 1) % 2 ^ left)
          [ZMOD _] := hacc.add (hsh.mul_right _)
      _ = _ := by ring

theorem multiplySerial_length {so : Nat} (a : WordBuf) {b : WordBuf} (v : Variant) (h : b.length ≤ so) :
    (multiplySerial so a b v).length = so := by
  rw [multiplySerial, multiplyLoop_length, makeZero_length]
  rw [makeZero_length, ext_length v h]

theorem uval_multiplySerial_modEq {so : Nat} (a : WordBuf) {b : WordBuf} (v : Variant) (h : b.length ≤ so) :
    (uval (multiplySerial so a b v) : Int) ≡ reading v a * reading v b [ZMOD 2 ^ (32 * so)] := by
  have hext : reading v b ≡ uval (ext so b v) [ZMOD 2 ^ (32 * so)] := by
    simpa only [reading_ext, ext_length v h] using reading_modEq_uval v (ext so b v)
  have hloop := uval_multiplyLoop_modEq a v (32 * so) 0 (acc := makeZero so) (sh := ext so b v)
    (by rw [makeZero_length, ext_length v h])
  rw [makeZero_length, uval_makeZero, Nat.cast_zero, zero_add, pow_zero, Int.ediv_one] at hloop
  calc (uval (multiplySerial so a b v) : Int)
    _ ≡ uval (ext so b v) * (reading v a % 2 ^ (32 * so)) [ZMOD _] := hloop
    _ ≡ reading v b * reading v a [ZMOD _] := hext.symm.mul (Int.mod_modEq ..)
    _ = reading v a * reading v b := mul_comm ..

/-- Settles O26: the scanned bits, weighted by their positions, sum to the multiplier modulo `2^(32·so)`. -/
theorem shiftAndAddIsTheProduct : Obligations.ShiftAndAddIsTheProduct := by
  intro so a b v h
  refine eq_of_uval_eq (by rw [multiplySerial_length a v h, bufInt_length]) ?_
  have hlt := uval_lt (multiplySerial so a b v)
  rw [multiplySerial_length a v h] at hlt
  zify at hlt ⊢
  rw [uval_bufInt, ← uval_multiplySerial_modEq a v h, Int.emod_eq_of_lt (by positivity) hlt]

/-! ## The product of two registers (R96, R97) -/

/-- Dropping the low word of a 5-word product divides by `2^32`. -/
theorem uval_narrowProduct {p : WordBuf} (h : p.length = 5) : uval (narrowProduct p) = uval p / 2 ^ 32 := by
  obtain _ | ⟨w, ws⟩ := p
  · cases h
  have hws : ws.length ≤ 4 := (Nat.succ.inj h).le
  have hw := w.isLt
  rw [narrowProduct, List.drop_one, List.tail_cons, List.take_of_length_le hws, uval_cons]
  omega

theorem narrowProduct_multiply_length (a b : WordBuf) (v : Variant) :
    (narrowProduct (multiply 5 a b v)).length = 4 :=
  narrowProduct_length (multiply_length 5 a b v)

theorem uval_narrowProduct_multiply (a b : WordBuf) (v : Variant) :
    (uval (narrowProduct (multiply 5 a b v)) : Int) = reading v a * reading v b % 2 ^ 160 / 2 ^ 32 := by
  rw [uval_narrowProduct (multiply_length 5 a b v), multiply]
  rw [Int.natCast_ediv, uval_bufInt]
  rfl

/-- The 160-bit product without its low word is the floor of the scaled product modulo `2^128`. -/
theorem quadOf_narrowProduct_multiply (a b : WordBuf) (v : Variant) :
    quadOf (narrowProduct (multiply 5 a b v)) = quadOfInt (reading v a * reading v b / 2 ^ 32) := by
  refine quadOf_eq_quadOfInt (narrowProduct_multiply_length a b v) ?_
  rw [uval_narrowProduct_multiply]
  omega

/-- Settles O48: without its low word the 160-bit product fits the register (U), and is the floor modulo `2^128` (S). -/
theorem multiplyRegisters : Obligations.MultiplyRegisters := by
  refine fun rd ra rb s => ⟨writeResult_of_quadOf_eq ?_ s,
    writeResult_of_quadOf_eq (quadOf_narrowProduct_multiply (s.xWords ra) (s.xWords rb) .S) s⟩
  refine quadOf_eq_quadOfNat (narrowProduct_multiply_length ..) ?_
  have hval : (uval (narrowProduct (multiply 5 (s.xWords ra) (s.xWords rb) .U)) : Int) =
      (raw (s.x ra) : Int) * raw (s.x rb) % 2 ^ 160 / 2 ^ 32 := uval_narrowProduct_multiply ..
  zify
  omega

/-! ## The product with a plain integer (R98, R99) -/

/-- A 4-word product is the exact product modulo `2^128`. -/
theorem quadOf_multiply (a b : WordBuf) (v : Variant) :
    quadOf (multiply 4 a b v) = quadOfInt (reading v a * reading v b) := rfl

theorem uval_singleton (w : Word) : uval [w] = w.toNat := by simp

/-- Settles O49: the integer is read as a 1-word buffer of the command's variant. -/
theorem multiplyByPlainInteger : Obligations.MultiplyByPlainInteger := by
  refine fun rd ra imm s => ⟨writeResult_of_quadOf_eq ?_ s, writeResult_of_quadOf_eq ?_ s⟩
  · rw [quadOf_multiply, reading, reading, uval_singleton, ← quadOfInt_natCast, Nat.cast_mul]
    rfl
  · rw [quadOf_multiply, reading, reading, sval_singleton]
    rfl

end Sys2Proof.Multiply
end

section
/-! Proofs about the restoring divider and the divide commands (45_divide.md). -/

namespace Sys2Proof.Divide

open Sys2Proof.Machine Sys2Proof.WordArrays Sys2Proof.AddSub Sys2Proof.ShiftBitwise Sys2Proof.CompareTest

/-! ## The divider's word operations: compare, shift by one bit, restore the lost bit, set the quotient's low bit -/

/-- With no fractional words the comparator orders the unsigned values (R100). -/
theorem gtU_zero_iff (a b : WordBuf) : gtU a 0 b 0 = true ↔ uval b < uval a := by
  simpa using gtU_iff a b 0 0

theorem ltU_zero_iff (a b : WordBuf) : ltU a 0 b 0 = true ↔ uval a < uval b := gtU_zero_iff b a

/-- The bit that a shift by one drops off the top is the sign bit: with it, the shift is exact. -/
theorem shlWords_one_exact (a : WordBuf) :
    uval (shlWords a 1) + 2 ^ (32 * a.length) * (getMsb a).toNat = 2 * uval a := by
  rcases eq_or_ne a [] with rfl | ha
  · rfl
  have hpos := List.length_pos_iff.2 ha
  have hlt := uval_lt a
  have hhalf : 2 * 2 ^ (32 * a.length - 1) = 2 ^ (32 * a.length) := mul_pow_sub_one (by omega) 2
  rw [uval_shlWords, pow_one, getMsb, signBit_eq_decide hpos]
  by_cases hle : 2 ^ (32 * a.length - 1) ≤ uval a
  · rw [decide_eq_true hle, Bool.toNat_true, Nat.mod_eq_sub_mod (by omega), Nat.mod_eq_of_lt (by omega)]
    omega
  · rw [decide_eq_false hle, Bool.toNat_false, Nat.mod_eq_of_lt (by omega)]
    omega

/-- Setting the top bit adds its weight where the bit was clear. -/
theorem uval_setMsb {a : WordBuf} (hpos : 0 < a.length) (hclear : uval a < 2 ^ (32 * a.length - 1)) :
    uval (setMsb a) = uval a + 2 ^ (32 * a.length - 1) := by
  have hor : uval a + 2 ^ (32 * a.length - 1) = 2 ^ (32 * a.length - 1) ||| uval a := by
    simpa [Nat.add_comm] using Nat.two_pow_add_eq_or_of_lt hclear 1
  rw [hor]
  refine Nat.eq_of_testBit_eq fun j => ?_
  rcases lt_or_ge j (32 * a.length) with hin | hout
  · rw [Nat.testBit_or, Nat.testBit_two_pow, ← bitAt_eq_testBit, ← bitAt_eq_testBit, bitAt_setMsb hin, Bool.or_comm]
    simp [eq_comm]
  · have hset := setMsb_length a
    have htop : 2 ^ (32 * a.length - 1) < 2 ^ j := Nat.pow_lt_pow_right (by decide) (by omega)
    rw [Nat.testBit_lt_two_pow (uval_lt_two_pow_of_le (by rwa [hset])),
      Nat.testBit_lt_two_pow (Nat.or_lt_two_pow htop (hclear.trans htop))]

/-- Setting bit 0 adds 1 where the bit was clear. -/
theorem uval_orOne {q : WordBuf} (hq : q ≠ []) (heven : uval q % 2 = 0) : uval (orOne q) = uval q + 1 := by
  obtain _ | ⟨w, ws⟩ := q
  · exact absurd rfl hq
  have hlow : w.toNat = 2 ^ 1 * (w.toNat / 2) := by rw [uval_cons] at heven; omega
  have hor : (w ||| 1).toNat = w.toNat + 1 := by
    rw [BitVec.toNat_or, hlow]
    exact (Nat.two_pow_add_eq_or_of_lt (by decide) _).symm
  rw [orOne, uval_cons, uval_cons, hor]
  omega

@[simp] theorem orOne_length (q : WordBuf) : (orOne q).length = q.length := by
  cases q <;> rfl

/-! ## The pre-alignment (R101) -/

/-- The answer of the alignment loop on an `n`-word divisor `d` after `k` shifts: the copy, with the lost bit above it,
is `d * 2^k`. -/
structure ShiftedBy (k d n : Nat) (r : WordBuf × Int × Bool) : Prop where
  length : r.1.length = n
  value : uval r.1 + 2 ^ (32 * n) * r.2.2.toNat = d * 2 ^ k
  count : r.2.1 = k

/-- While no bit has been lost, one more shift is exact, the bit it drops being the new lost bit. -/
theorem ShiftedBy.succ {k d n : Nat} {dv : WordBuf} {shift : Int} (h : ShiftedBy k d n (dv, shift, false)) :
    ShiftedBy (k + 1) d n (shlWords dv 1, shift + 1, getMsb dv) := by
  obtain ⟨hlen, hval, hcount⟩ := h
  have hexact := shlWords_one_exact dv
  refine ⟨by simpa using hlen, ?_, by simpa using hcount⟩
  simp only [Bool.toNat_false, Nat.mul_zero, Nat.add_zero] at hval hlen
  rw [← hlen, hexact, hval]
  ring

/-- A divisor that has lost a bit is above every dividend of its width. -/
theorem ShiftedBy.lt_of_lost {k d : Nat} {dividend dv : WordBuf} {shift : Int}
    (h : ShiftedBy k d dividend.length (dv, shift, true)) : uval dividend < d * 2 ^ k := by
  have hval := h.value
  have := uval_lt dividend
  rw [Bool.toNat_true] at hval
  omega

theorem alignLoop_stop {dividend dv : WordBuf} {lost : Bool} (fuel : Nat) (shift : Int)
    (h : lost = true ∨ uval dividend ≤ uval dv) : alignLoop dividend fuel dv shift lost = (dv, shift, lost) := by
  cases fuel with
  | zero => rfl
  | succ fuel =>
    rw [alignLoop, if_neg]
    rintro ⟨rfl, hlt⟩
    rw [ltU_zero_iff] at hlt
    exact h.elim Bool.false_ne_true hlt.not_ge

theorem alignLoop_shift {dividend dv : WordBuf} (fuel : Nat) (shift : Int) (h : uval dv < uval dividend) :
    alignLoop dividend (fuel + 1) dv shift false =
      alignLoop dividend fuel (shlWords dv 1) (shift + 1) (getMsb dv) := by
  rw [alignLoop, if_pos ⟨rfl, (ltU_zero_iff ..).2 h⟩]

/-- The loop ends with the shifted divisor at the dividend or above it; `hfuel` says that the fuel suffices. -/
theorem alignLoop_spec {d : Nat} (dividend : WordBuf) (fuel k : Nat) {dv : WordBuf} {shift : Int} {lost : Bool}
    (h : ShiftedBy k d dividend.length (dv, shift, lost)) (hfuel : uval dividend ≤ d * 2 ^ (k + fuel)) :
    ∃ k', ShiftedBy k' d dividend.length (alignLoop dividend fuel dv shift lost) ∧ uval dividend ≤ d * 2 ^ k' := by
  induction fuel generalizing k dv shift lost with
  | zero => exact ⟨k, h, hfuel⟩
  | succ fuel ih =>
    cases lost with
    | true =>
      rw [alignLoop_stop _ _ (.inl rfl)]
      exact ⟨k, h, h.lt_of_lost.le⟩
    | false =>
      rcases lt_or_ge (uval dv) (uval dividend) with hbelow | hreached
      · rw [alignLoop_shift _ _ hbelow]
        exact ih (k + 1) h.succ (by rwa [Nat.add_right_comm])
      · rw [alignLoop_stop _ _ (.inr hreached)]
        exact ⟨k, h, hreached.trans ((Nat.le_add_right ..).trans h.value.le)⟩

/-- The part of R101 after the loop. -/
def shiftBack (dividend : WordBuf) (r : WordBuf × Int × Bool) : WordBuf × Int :=
  if r.2.2 = true ∨ gtU r.1 0 dividend 0 then
    (if r.2.2 then setMsb (shrUWords r.1 1) else shrUWords r.1 1, r.2.1 - 1)
  else (r.1, r.2.1)

theorem preAlign_eq_shiftBack (dividend dv : WordBuf) :
    preAlign dividend dv = shiftBack dividend (alignLoop dividend (32 * dividend.length) dv 0 false) := rfl

/-- The shift back halves the shifted divisor: a lost bit comes back as the top bit. -/
theorem uval_halved {k d n : Nat} {dv : WordBuf} {shift : Int} {lost : Bool} (hn : 0 < n)
    (h : ShiftedBy k d n (dv, shift, lost)) :
    uval (if lost then setMsb (shrUWords dv 1) else shrUWords dv 1) = d * 2 ^ k / 2 := by
  have hlen : dv.length = n := h.length
  have hval : uval dv + 2 ^ (32 * n) * lost.toNat = d * 2 ^ k := h.value
  have hhalf : 2 * 2 ^ (32 * n - 1) = 2 ^ (32 * n) := mul_pow_sub_one (by omega) 2
  have hshr : uval (shrUWords dv 1) = uval dv / 2 := uval_shrUWords dv 1
  have hlt := uval_lt dv
  rw [hlen] at hlt
  rw [← hval]
  cases lost with
  | false => exact hshr
  | true =>
    rw [if_pos rfl, uval_setMsb (by rwa [shrUWords_length, hlen]) (by rw [shrUWords_length, hlen]; omega),
      shrUWords_length, hlen, hshr, Bool.toNat_true]
    omega

/-- What the quotient loop starts from: `m` rounds to run, the dividend below `d * 2^m`, the copy half of that. -/
structure AlignedFor (m d : Nat) (dividend : WordBuf) (r : WordBuf × Int) : Prop where
  rounds : r.2 + 1 = m
  length : r.1.length = dividend.length
  value : uval r.1 = d * 2 ^ m / 2
  bound : uval dividend < d * 2 ^ m

theorem shiftBack_spec {k d : Nat} {dividend : WordBuf} {r : WordBuf × Int × Bool} (hd : 0 < d)
    (hn : 0 < dividend.length) (h : ShiftedBy k d dividend.length r) (hle : uval dividend ≤ d * 2 ^ k) :
    ∃ m, AlignedFor m d dividend (shiftBack dividend r) := by
  obtain ⟨dv, shift, lost⟩ := r
  have hlen : dv.length = dividend.length := h.length
  have hval : uval dv + 2 ^ (32 * dividend.length) * lost.toNat = d * 2 ^ k := h.value
  have hcount : shift = k := h.count
  by_cases hover : lost = true ∨ gtU dv 0 dividend 0 = true
  · have hbound : uval dividend < d * 2 ^ k := by
      rcases hover with rfl | hgt
      · exact h.lt_of_lost
      · rw [gtU_zero_iff] at hgt
        omega
    have hback : (if lost then setMsb (shrUWords dv 1) else shrUWords dv 1).length = dividend.length := by
      cases lost <;> simpa using hlen
    rw [shiftBack, if_pos hover]
    exact ⟨k, by simp [hcount], hback, uval_halved hn h, hbound⟩
  · rw [shiftBack, if_neg hover]
    rw [not_or, Bool.not_eq_true, gtU_zero_iff] at hover
    obtain ⟨rfl, hge⟩ := hover
    have hexact : uval dv = d * 2 ^ k := hval
    have hdouble : d * 2 ^ (k + 1) = 2 * (d * 2 ^ k) := by ring
    have hpos : 0 < d * 2 ^ k := by positivity
    exact ⟨k + 1, by simp [hcount], hlen, by rw [hdouble, hexact]; omega, by omega⟩

theorem preAlign_spec {dividend dv : WordBuf} (hlen : dv.length = dividend.length) (hpos : 0 < uval dv) :
    ∃ m, AlignedFor m (uval dv) dividend (preAlign dividend dv) := by
  have hn : 0 < dividend.length := by
    rw [← hlen]
    refine List.length_pos_iff.2 ?_
    rintro rfl
    exact lt_irrefl 0 hpos
  have hstart : ShiftedBy 0 (uval dv) dividend.length (dv, 0, false) := ⟨hlen, by simp, rfl⟩
  have hfuel : uval dividend ≤ uval dv * 2 ^ (0 + 32 * dividend.length) := by
    rw [Nat.zero_add]
    exact (uval_lt dividend).le.trans (Nat.le_mul_of_pos_left _ hpos)
  obtain ⟨k, hloop, hle⟩ := alignLoop_spec dividend (32 * dividend.length) 0 hstart hfuel
  rw [preAlign_eq_shiftBack]
  exact shiftBack_spec hpos hn hloop hle

/-! ## The quotient loop (R102) -/

theorem buf_congr {n v w : Nat} (h : v ≡ w [MOD 2 ^ (32 * n)]) : buf n v = buf n w := by
  rw [← buf_mod, h, buf_mod]

/-- One round on the quotient and the dividend. -/
def quotientRound (q d dv : WordBuf) : WordBuf × WordBuf :=
  if gtU dv 0 d 0 then (shlWords q 1, d) else (orOne (shlWords q 1), (subWords d dv).1)

theorem quotientLoop_succ (left : Nat) (q d dv : WordBuf) :
    quotientLoop (left + 1) q d dv =
      quotientLoop left (quotientRound q d dv).1 (quotientRound q d dv).2 (shrUWords dv 1) := by
  rw [quotientLoop, quotientRound]
  split <;> rfl

theorem uval_orOne_shlWords_modEq (q : WordBuf) :
    uval (orOne (shlWords q 1)) ≡ uval q * 2 + 1 [MOD 2 ^ (32 * q.length)] := by
  rcases eq_or_ne q [] with rfl | hq
  · exact Nat.modEq_one
  have hpos := List.length_pos_iff.2 hq
  have hshl : uval (shlWords q 1) = uval q * 2 % 2 ^ (32 * q.length) := uval_shlWords q 1
  have hdvd : 2 ∣ 2 ^ (32 * q.length) := dvd_pow_self 2 (by omega)
  have heven : uval (shlWords q 1) % 2 = 0 := by rw [hshl, Nat.mod_mod_of_dvd _ hdvd, Nat.mul_mod_left]
  rw [uval_orOne (List.length_pos_iff.1 (by rwa [shlWords_length])) heven, hshl]
  exact (Nat.mod_modEq ..).add_right 1

/-- With the dividend below twice the copy, a round appends their quotient, one bit, and leaves the remainder. -/
theorem quotientRound_spec (q : WordBuf) {d dv : WordBuf} (hlen : d.length = dv.length)
    (hlt : uval d < 2 * uval dv) :
    (quotientRound q d dv).1.length = q.length ∧
    uval (quotientRound q d dv).1 ≡ uval q * 2 + uval d / uval dv [MOD 2 ^ (32 * q.length)] ∧
    (quotientRound q d dv).2.length = d.length ∧
    uval (quotientRound q d dv).2 = uval d % uval dv := by
  by_cases hgt : gtU dv 0 d 0 = true
  · rw [quotientRound, if_pos hgt]
    rw [gtU_zero_iff] at hgt
    rw [Nat.div_eq_of_lt hgt, Nat.mod_eq_of_lt hgt]
    refine ⟨shlWords_length .., ?_, rfl, rfl⟩
    rw [uval_shlWords]
    exact Nat.mod_modEq ..
  · rw [quotientRound, if_neg hgt]
    rw [gtU_zero_iff, not_lt] at hgt
    have hdiv : uval d / uval dv = 1 := Nat.div_eq_of_lt_le (by omega) (by omega)
    have hmod : uval d % uval dv = uval d - uval dv := by rw [Nat.mod_eq_sub_mod hgt, Nat.mod_eq_of_lt (by omega)]
    have hsub := subWords_exact hlen
    have hborrow : (subWords d dv).2 = false := Bool.eq_false_iff.2 (mt (borrow_subWords_iff hlen).1 hgt.not_gt)
    rw [hborrow, Bool.toNat_false] at hsub
    rw [hdiv, hmod]
    exact ⟨by simp, uval_orOne_shlWords_modEq q, subWords_length_of_eq hlen, Nat.eq_sub_of_add_eq hsub⟩

/-- The loop's invariant: `left` rounds append the quotient by `d`, which has no more than `left` bits. -/
theorem quotientLoop_spec {d : Nat} (hd : 0 < d) (left : Nat) (q : WordBuf) {D dv : WordBuf}
    (hlen : D.length = dv.length) (hdv : uval dv = d * 2 ^ left / 2) (hlt : uval D < d * 2 ^ left) :
    quotientLoop left q D dv = (buf q.length (uval q * 2 ^ left + uval D / d), buf D.length (uval D % d)) := by
  induction left generalizing q D dv with
  | zero =>
    rw [pow_zero, Nat.mul_one] at hlt
    rw [Nat.div_eq_of_lt hlt, Nat.mod_eq_of_lt hlt, pow_zero, Nat.mul_one, Nat.add_zero, buf_uval, buf_uval,
      quotientLoop]
  | succ left ih =>
    have hdouble : d * 2 ^ (left + 1) = 2 * (d * 2 ^ left) := by ring
    rw [hdouble] at hdv hlt
    have hdv' : uval dv = d * 2 ^ left := by omega
    obtain ⟨hqlen, hq, hDlen, hD⟩ := quotientRound_spec q hlen (by rwa [hdv'])
    rw [hdv'] at hq hD
    have hshr : uval (shrUWords dv 1) = d * 2 ^ left / 2 := by rw [uval_shrUWords, hdv', pow_one]
    have hrest : uval (quotientRound q D dv).2 < d * 2 ^ left := by
      rw [hD]
      exact Nat.mod_lt _ (by positivity)
    have hmod : uval D % (d * 2 ^ left) % d = uval D % d := Nat.mod_mul_right_mod ..
    have hdiv : uval D / (d * 2 ^ left) * 2 ^ left + uval D % (d * 2 ^ left) / d = uval D / d := by
      rw [← Nat.div_div_eq_div_mul, Nat.mod_mul_right_div_self, Nat.mul_comm, Nat.div_add_mod]
    rw [quotientLoop_succ, ih _ (by rw [hDlen, hlen, shrUWords_length]) hshr hrest, hqlen, hDlen, hD, hmod]
    refine congrArg (·, _) (buf_congr ?_)
    calc uval (quotientRound q D dv).1 * 2 ^ left + uval D % (d * 2 ^ left) / d
      _ ≡ (uval q * 2 + uval D / (d * 2 ^ left)) * 2 ^ left + uval D % (d * 2 ^ left) / d [MOD _] :=
        (hq.mul_right _).add_right _
      _ = uval q * 2 ^ (left + 1) + (uval D / (d * 2 ^ left) * 2 ^ left + uval D % (d * 2 ^ left) / d) := by ring
      _ = uval q * 2 ^ (left + 1) + uval D / d := by rw [hdiv]

theorem makeZero_eq_buf (n : Nat) : makeZero n = buf n 0 :=
  eq_of_uval_eq (by simp) (by simp [uval_buf])

/-- Settles O27: the pre-alignment leaves a round for every bit of the quotient, and each round appends one. -/
theorem restoringDividerIsTheQuotient : Obligations.RestoringDividerIsTheQuotient := by
  intro so dividend divisor hlen
  rw [divideRestoring, isZero_eq_decide]
  by_cases hzero : uval divisor = 0
  · rw [if_pos hzero, if_pos (decide_eq_true hzero), makeZero_eq_buf]
  have hpos : 0 < uval (ext dividend.length divisor .U) := by rw [uval_ext_U]; omega
  obtain ⟨m, hal⟩ := preAlign_spec (ext_length .U hlen) hpos
  rw [uval_ext_U] at hal
  have hrounds : ((preAlign dividend (ext dividend.length divisor .U)).2 + 1).toNat = m := by
    rw [hal.rounds, Int.toNat_natCast]
  rw [if_neg hzero, if_neg (by simpa using hzero)]
  dsimp only
  rw [hrounds, quotientLoop_spec (Nat.pos_of_ne_zero hzero) m _ hal.length.symm hal.value hal.bound]
  simp

/-! ## The unsigned quotients (R104, R106): the quotient by zero is zero, in the engine as in the natural numbers -/

theorem quadOf_divide (a b : WordBuf) : quadOf (divide 4 a b) = quadOfNat (uval a / uval b) := by
  rw [divide, isZero_eq_decide]
  by_cases hzero : uval b = 0
  · rw [if_pos (decide_eq_true hzero), hzero, Nat.div_zero]
    rfl
  · rw [if_neg (by simpa using hzero)]
    rfl

/-- Widening the dividend by a zero low word scales it by `2^32` (R104). -/
theorem quadOf_divideFx (a b : WordBuf) : quadOf (divideFx a b) = quadOfNat (uval a * 2 ^ 32 / uval b) := by
  rw [divideFx, quadOf_divide, uval_cons, Nat.mul_comm]
  simp

/-- Settles O50: the widened dividend divided by the second register. -/
theorem divideUnsigned : Obligations.DivideUnsigned := by
  refine fun rd ra rb s => writeResult_of_quadOf_eq ?_ s
  rw [ite_eq_right_iff.2 fun hzero => by rw [hzero, Nat.div_zero]; rfl]
  exact quadOf_divideFx ..

/-! ## The sign and the magnitude of an operand (R105, R107) -/

/-- The operand without its sign. -/
def magnitude (a : WordBuf) : WordBuf := if signBit a then negWords a else a

theorem divideSigned_eq (f : WordBuf → WordBuf → WordBuf) (a b : WordBuf) :
    divideSigned f a b =
      if signBit a ≠ signBit b then negWords (f (magnitude a) (magnitude b)) else f (magnitude a) (magnitude b) := rfl

theorem signBit_iff_neg (a : WordBuf) : signBit a = true ↔ sval a < 0 := by
  refine ⟨sval_neg, fun hneg => ?_⟩
  by_contra hclear
  exact hneg.not_ge (sval_nonneg (Bool.not_eq_true _ ▸ hclear))

theorem signBit_ne_iff (a b : WordBuf) : signBit a ≠ signBit b ↔ ¬ (sval a < 0 ↔ sval b < 0) := by
  rw [← signBit_iff_neg, ← signBit_iff_neg, ← Bool.eq_iff_iff]

/-- Also of the most negative pattern, which is its own negation and unsigned is its magnitude (R108). -/
theorem uval_magnitude (a : WordBuf) : uval (magnitude a) = (sval a).natAbs := by
  have hsval := sval_eq a
  have hlt := uval_lt a
  rw [magnitude]
  cases hsign : signBit a with
  | false => simp [hsval, hsign]
  | true =>
    have hpos : uval a ≠ 0 := by
      intro hzero
      rw [signBit, bitAt_eq_testBit, hzero, Nat.zero_testBit] at hsign
      exact Bool.false_ne_true hsign
    rw [if_pos rfl, uval_negWords, Nat.mod_eq_of_lt (by omega)]
    rw [hsign] at hsval
    zify [hlt.le]
    rw [hsval, Bool.toNat_true, Nat.cast_one, mul_one, abs_of_neg, neg_sub]
    exact sub_neg_of_lt (by exact_mod_cast hlt)

theorem quadOf_negWords_of_eq {b : WordBuf} {v : Nat} (hl : b.length = 4) (h : quadOf b = quadOfNat v) :
    quadOf (negWords b) = quadOfInt (-(v : Int)) := by
  rw [← quadWords_quadOf hl, quadOf_negWords, h, raw_quadOfNat]
  exact quadOfInt_congr (by omega)

/-- The quotient of the magnitudes, negated when the signs differ. -/
def withQuotientSign (x y : Int) (q : Nat) : Int := if x < 0 ↔ y < 0 then q else -q

theorem quadOf_divideSigned {f : WordBuf → WordBuf → WordBuf} {q : Nat} (a b : WordBuf)
    (hlen : (f (magnitude a) (magnitude b)).length = 4)
    (hq : quadOf (f (magnitude a) (magnitude b)) = quadOfNat q) :
    quadOf (divideSigned f a b) = quadOfInt (withQuotientSign (sval a) (sval b) q) := by
  rw [divideSigned_eq, withQuotientSign]
  by_cases hsigns : sval a < 0 ↔ sval b < 0
  · rw [if_neg (mt (signBit_ne_iff a b).1 (not_not.2 hsigns)), if_pos hsigns, hq, quadOfInt_natCast]
  · rw [if_pos ((signBit_ne_iff a b).2 hsigns), if_neg hsigns, quadOf_negWords_of_eq hlen hq]

/-- Dividing magnitudes and giving the quotient its sign truncates toward zero. -/
theorem withQuotientSign_eq_tdiv (x y : Int) : withQuotientSign x y (x.natAbs / y.natAbs) = x.tdiv y := by
  rw [withQuotientSign]
  rw [Int.natCast_ediv, Int.natCast_natAbs, Int.natCast_natAbs]
  rcases lt_or_ge x 0 with hx | hx
  · have hnum : x.tdiv y = -(-x / y) := by
      rw [← Int.tdiv_eq_ediv_of_nonneg (by omega), Int.neg_tdiv, neg_neg]
    rw [hnum, abs_of_neg hx]
    rcases lt_or_ge y 0 with hy | hy
    · rw [if_pos (iff_of_true hx hy), abs_of_neg hy, Int.ediv_neg]
    · rw [if_neg (by simp [hx, hy]), abs_of_nonneg hy]
  · rw [Int.tdiv_eq_ediv_of_nonneg hx, abs_of_nonneg hx]
    rcases lt_or_ge y 0 with hy | hy
    · rw [if_neg (by simp [hx, hy]), abs_of_neg hy, Int.ediv_neg, neg_neg]
    · rw [if_pos (by omega), abs_of_nonneg hy]

/-- Scaling the dividend keeps its sign (R104, R105). -/
theorem withQuotientSign_scaled_eq_tdiv (x y : Int) :
    withQuotientSign x y (x.natAbs * 2 ^ 32 / y.natAbs) = (x * 2 ^ 32).tdiv y := by
  have hsign : x * 2 ^ 32 < 0 ↔ x < 0 := by omega
  have hmag : (x * 2 ^ 32).natAbs = x.natAbs * 2 ^ 32 := Int.natAbs_mul ..
  simp only [← withQuotientSign_eq_tdiv, withQuotientSign, hsign, hmag]

/-! ## The signed quotients -/

theorem quadOf_divideSigned_divide (a b : WordBuf) :
    quadOf (divideSigned (divide 4) a b) = quadOfInt ((sval a).tdiv (sval b)) := by
  rw [← withQuotientSign_eq_tdiv]
  refine quadOf_divideSigned a b (divide_length ..) ?_
  rw [quadOf_divide, uval_magnitude, uval_magnitude]

theorem quadOf_divideSigned_divideFx (a b : WordBuf) :
    quadOf (divideSigned divideFx a b) = quadOfInt ((sval a * 2 ^ 32).tdiv (sval b)) := by
  rw [← withQuotientSign_scaled_eq_tdiv]
  refine quadOf_divideSigned a b (divideFx_length ..) ?_
  rw [quadOf_divideFx, uval_magnitude, uval_magnitude]

theorem exec_divS (rd ra rb : Reg) (s : State) :
    exec (.divS rd ra rb) s =
      .next (s.writeX rd (quadOfInt ((rawSigned (s.x ra) * 2 ^ 32).tdiv (rawSigned (s.x rb))))) :=
  writeResult_of_quadOf_eq (quadOf_divideSigned_divideFx (s.xWords ra) (s.xWords rb)) s

/-- Settles O52: the integer is read as a 1-word buffer of the command's variant. -/
theorem divideByPlainInteger : Obligations.DivideByPlainInteger := by
  refine fun rd ra imm s => ⟨writeResult_of_quadOf_eq ?_ s, writeResult_of_quadOf_eq ?_ s⟩
  · rw [ite_eq_right_iff.2 fun hzero => by rw [hzero, show (0 : Word).toNat = 0 from rfl, Nat.div_zero]; rfl]
    rw [quadOf_divide, Multiply.uval_singleton]
    rfl
  · rw [ite_eq_right_iff.2 fun hzero => by rw [hzero, show (0 : Word).toInt = 0 from rfl, Int.tdiv_zero]; rfl]
    rw [quadOf_divideSigned_divide, sval_singleton]
    rfl

/-- Settles O51: a zero divisor needs no case of its own, and truncation toward zero divides the magnitudes. -/
theorem divideSigned : Obligations.DivideSigned := by
  intro rd ra rb s q
  have hq : withQuotientSign (rawSigned (s.x ra)) (rawSigned (s.x rb)) q =
      (rawSigned (s.x ra) * 2 ^ 32).tdiv (rawSigned (s.x rb)) := withQuotientSign_scaled_eq_tdiv ..
  rw [← apply_ite quadOfInt, ← withQuotientSign, hq, ite_eq_right_iff.2, exec_divS]
  intro hzero
  rw [hzero, Int.tdiv_zero]
  rfl

/-! ## `DIV.S` at the boundary (R108) -/

theorem exec_divS_of_contents {rd ra rb : Reg} {s : State} {a b q : Quad}
    (hq : quadOfInt ((rawSigned a * 2 ^ 32).tdiv (rawSigned b)) = q) (h : s.x ra = a ∧ s.x rb = b) :
    exec (.divS rd ra rb) s = .next (s.writeX rd q) := by
  obtain ⟨rfl, rfl⟩ := h
  rw [exec_divS, hq]

theorem rawSigned_zero : rawSigned ⟨0, 0, 0, 0⟩ = 0 := rfl

/-- Settles O53: six rows by their values; an operand of zero makes the quotient zero. -/
theorem signedDivisionBoundary : Obligations.SignedDivisionBoundary := by
  intro rd ra rb s min gives
  refine ⟨exec_divS_of_contents (by decide), exec_divS_of_contents (by decide), exec_divS_of_contents (by decide),
    exec_divS_of_contents (by decide), exec_divS_of_contents (by decide), exec_divS_of_contents (by decide),
    fun hb => exec_divS_of_contents ?_ ⟨rfl, hb⟩, fun ha => exec_divS_of_contents ?_ ⟨ha, rfl⟩⟩
  · rw [rawSigned_zero, Int.tdiv_zero]
    rfl
  · rw [rawSigned_zero, Int.zero_mul, Int.zero_tdiv]
    rfl

end Sys2Proof.Divide
end

section
/-! Proofs about the square-root engine and the square-root commands (46_sqrt.md). -/

namespace Sys2Proof.SquareRoot

open Sys2Proof.Machine Sys2Proof.WordArrays Sys2Proof.ShiftBitwise Sys2Proof.Divide

/-! ## The seed (R109): the bit length of the operand and the shift by half of it -/

theorem uval_shrUWords_one (a : WordBuf) : uval (shrUWords a 1) = uval a / 2 := by
  rw [uval_shrUWords, Nat.pow_one]

theorem shiftsToZero_of_uval_zero (fuel : Nat) {w : WordBuf} (h : uval w = 0) : shiftsToZero fuel w = 0 := by
  cases fuel with
  | zero => rfl
  | succ fuel => rw [shiftsToZero, isZero_eq_decide, if_pos (decide_eq_true h)]

/-- With enough fuel the shifts down to zero count the bit length. -/
theorem shiftsToZero_eq_log2 {fuel : Nat} {w : WordBuf} (hfuel : uval w < 2 ^ fuel) (h : uval w ≠ 0) :
    shiftsToZero fuel w = Nat.log2 (uval w) + 1 := by
  induction fuel generalizing w with
  | zero => omega
  | succ fuel ih =>
    have hhalf := uval_shrUWords_one w
    rw [shiftsToZero, isZero_eq_decide, if_neg (by simpa using h), Nat.log2_def]
    by_cases h2 : 2 ≤ uval w
    · rw [if_pos h2, ih (by omega) (by omega), hhalf]
    · rw [if_neg h2, shiftsToZero_of_uval_zero fuel (by omega)]

theorem bitLength_eq_log2 {v : WordBuf} (h : uval v ≠ 0) : bitLength v = Nat.log2 (uval v) + 1 :=
  shiftsToZero_eq_log2 (uval_lt v) h

@[simp] theorem sqrtSeed_length (v : WordBuf) : (sqrtSeed v).length = v.length := shrUWords_length ..

theorem uval_sqrtSeed {v : WordBuf} (h : uval v ≠ 0) :
    uval (sqrtSeed v) = uval v / 2 ^ ((Nat.log2 (uval v) + 1) / 2) := by
  rw [sqrtSeed, uval_shrUWords, bitLength_eq_log2 h, Config.sqrtSeedShift]

/-- From 2 on the seed is read off the halved operand, so bit 0 has no part in it (R112). -/
theorem uval_sqrtSeed_of_two_le {v : WordBuf} (h : 2 ≤ uval v) :
    uval (sqrtSeed v) = uval v / 2 / 2 ^ (Nat.log2 (uval v / 2) / 2) := by
  have hshift : (Nat.log2 (uval v / 2) + 1 + 1) / 2 = 1 + Nat.log2 (uval v / 2) / 2 := by omega
  rw [uval_sqrtSeed (by omega), Nat.log2_def, if_pos h, hshift, Nat.pow_add, ← Nat.div_div_eq_div_mul, Nat.pow_one]

/-- A buffer that holds a number shifted right is that number's buffer: the shift loses no high bit. -/
theorem eq_buf_of_uval_eq_div {a v : WordBuf} {d : Nat} (hl : a.length = v.length) (h : uval a = uval v / d) :
    a = buf v.length (uval v / d) :=
  eq_buf_of_uval hl (by rw [h, Nat.mod_eq_of_lt ((Nat.div_le_self ..).trans_lt (uval_lt v))])

/-! ## One refinement step (R109) -/

theorem uval_divideFx (a b : WordBuf) : uval (divideFx a b) = uval a * 2 ^ 32 / uval b % 2 ^ 128 := by
  rw [← raw_quadOf (divideFx_length a b), quadOf_divideFx, raw_quadOfNat]

section
variable {half est : WordBuf} (hest : est.length = 4)
include hest

theorem sqrtDelta_length (half : WordBuf) : (sqrtDelta half est).length = 4 := by
  simp [sqrtDelta, hest]

/-- `delta` of the step from `est`, the difference taken modulo `2^128`. -/
theorem uval_sqrtDelta (half : WordBuf) :
    (uval (sqrtDelta half est) : Int) =
      (((uval half * 2 ^ 32 / uval est : Nat) : Int) - ((uval est / 2 : Nat) : Int)) % 2 ^ 128 := by
  rw [sqrtDelta, uval_subWords (by simp [hest]), divideFx_length, uval_divideFx, uval_shrUWords_one]
  push_cast
  exact Int.emod_sub_emod ..

theorem addWords_sqrtDelta (half : WordBuf) :
    (addWords est (sqrtDelta half est)).1 = bufInt 4 ((uval est : Int) + uval (sqrtDelta half est)) := by
  have hlen : est.length = (sqrtDelta half est).length := by rw [hest, sqrtDelta_length hest]
  refine eq_of_uval_eq (by rw [addWords_length_of_eq hlen, hest, bufInt_length]) ?_
  zify
  rw [uval_bufInt, uval_addWords hlen, hest]
  push_cast
  rfl

theorem sqrtStep_eq (half : WordBuf) :
    sqrtStep half est =
      if uval (sqrtDelta half est) ≤ 1 then none
      else some (bufInt 4 ((uval est : Int) + uval (sqrtDelta half est))) := by
  simp only [sqrtStep, sqrtConverged_eq_decide, decide_eq_true_eq, addWords_sqrtDelta hest]

end

theorem sqrtStep_eq_none_iff {half est : WordBuf} :
    sqrtStep half est = none ↔ uval (sqrtDelta half est) ≤ 1 := by
  simp [sqrtStep, sqrtConverged_eq_decide]

/-! ## The refinement (R109): the loop answers one of the estimates -/

theorem sqrtEstimate_succ (half seed : WordBuf) (n : Nat) :
    sqrtEstimate half seed (n + 1) = (sqrtEstimate half seed n).bind (sqrtStep half) := by
  rw [sqrtEstimate]
  cases sqrtEstimate half seed n <;> rfl

theorem sqrtLoop_of_stop {half est : WordBuf} (left : Nat) (h : sqrtStep half est = none) :
    sqrtLoop half left est = est := by
  cases left with
  | zero => rfl
  | succ left => rw [sqrtLoop, h]

theorem sqrtLoop_of_step {half est est' : WordBuf} (left : Nat) (h : sqrtStep half est = some est') :
    sqrtLoop half (left + 1) est = sqrtLoop half left est' := by
  rw [sqrtLoop, h]

/-- Started at estimate `m`, the loop ends at an estimate that stops or at the last one its steps allow. -/
theorem sqrtLoop_reaches {half seed : WordBuf} (left : Nat) {m : Nat} {est : WordBuf}
    (hest : sqrtEstimate half seed m = some est) :
    ∃ n ≤ m + left, sqrtEstimate half seed n = some (sqrtLoop half left est) ∧
      (sqrtStep half (sqrtLoop half left est) = none ∨ n = m + left) := by
  induction left generalizing m est with
  | zero => exact ⟨m, le_rfl, hest, .inr rfl⟩
  | succ left ih =>
    cases hstep : sqrtStep half est with
    | none =>
      rw [sqrtLoop_of_stop _ hstep]
      exact ⟨m, by omega, hest, .inl hstep⟩
    | some est' =>
      rw [sqrtLoop_of_step _ hstep, ← Nat.add_assoc, Nat.add_right_comm]
      exact ih (by rw [sqrtEstimate_succ, hest, Option.bind_some, hstep])

/-! ## The engine (R109, R112) -/

theorem sqrtFx_of_zero {v : WordBuf} (h : uval v = 0) : sqrtFx v = makeZero 4 := by
  rw [sqrtFx, isZero_eq_decide, if_pos (decide_eq_true h)]

theorem sqrtFx_of_ne_zero {v : WordBuf} (h : uval v ≠ 0) :
    sqrtFx v = sqrtLoop (shrUWords v 1) Config.nSqrt (sqrtSeed v) := by
  rw [sqrtFx, isZero_eq_decide, if_neg (by simpa using h)]

/-- The result of a non-zero operand is an estimate that stops, or the one at the cap. -/
theorem sqrtFx_reached {v : WordBuf} (h : uval v ≠ 0) :
    ∃ n ≤ Config.nSqrt, sqrtEstimate (shrUWords v 1) (sqrtSeed v) n = some (sqrtFx v) ∧
      (uval (sqrtDelta (shrUWords v 1) (sqrtFx v)) ≤ 1 ∨ n = Config.nSqrt) := by
  obtain ⟨n, hn, hest, hend⟩ := sqrtLoop_reaches (half := shrUWords v 1) (seed := sqrtSeed v) Config.nSqrt (m := 0) rfl
  rw [Nat.zero_add] at hn hend
  rw [← sqrtFx_of_ne_zero h] at hest hend
  exact ⟨n, hn, hest, hend.imp_left sqrtStep_eq_none_iff.1⟩

/-- Settles O56: the loop's result is a reached estimate, and each step is `sqrtStep_eq`. -/
theorem squareRootProcedure : Obligations.SquareRootProcedure := by
  refine ⟨fun v _ hzero => (sqrtFx_of_zero hzero).trans (makeZero_eq_buf 4), fun v hlen hne => ?_,
    fun half est _ hest _ => ?_, fun half seed n => ⟨rfl, sqrtEstimate_succ half seed n⟩⟩
  · obtain ⟨n, hn, hreached, hend⟩ := sqrtFx_reached hne
    rw [← hlen]
    exact ⟨eq_buf_of_uval_eq_div (sqrtSeed_length v) (uval_sqrtSeed hne),
      eq_buf_of_uval_eq_div (shrUWords_length v 1) (uval_shrUWords_one v), n, _, hn, hreached, rfl, hend⟩
  · intro delta
    have hdelta : (uval (sqrtDelta half est) : Int) = delta := uval_sqrtDelta hest half
    refine ⟨hdelta, ?_⟩
    rw [← hdelta, sqrtStep_eq hest]
    norm_cast

/-- Settles O58: the halved operand and the seed, all that the loop starts from, do not see bit 0. -/
theorem squareRootIgnoresTheLowestBit : Obligations.SquareRootIgnoresTheLowestBit := by
  intro v w hv hw htwo heq
  have hlen : v.length = w.length := hv.trans hw.symm
  have hhalf : shrUWords v 1 = shrUWords w 1 :=
    eq_of_uval_eq (by simpa using hlen) (by rw [uval_shrUWords_one, uval_shrUWords_one, heq])
  have hseed : sqrtSeed v = sqrtSeed w :=
    eq_of_uval_eq (by simpa using hlen) (by
      rw [uval_sqrtSeed_of_two_le htwo, uval_sqrtSeed_of_two_le (by omega), heq])
  rw [sqrtFx_of_ne_zero (by omega), sqrtFx_of_ne_zero (by omega), hhalf, hseed]

/-! ## The commands (R110, R111) -/

theorem exec_sqrtU (rd ra : Reg) (s : State) :
    exec (.sqrtU rd ra) s = .next (s.writeX rd (quadOf (sqrtFx (quadWords (s.x ra))))) := rfl

theorem exec_sqrtS_of_neg {rd ra : Reg} {s : State} (h : rawSigned (s.x ra) < 0) :
    exec (.sqrtS rd ra) s = .next (s.writeX rd ⟨0, 0, 0, 0⟩) :=
  writeResult_of_quadOf_eq (by rw [State.xWords, if_pos ((signBit_iff_neg _).2 h), quadOf_makeZero]) s

theorem exec_sqrtS_of_nonneg {rd ra : Reg} {s : State} (h : 0 ≤ rawSigned (s.x ra)) :
    exec (.sqrtS rd ra) s = exec (.sqrtU rd ra) s :=
  writeResult_of_quadOf_eq (by rw [State.xWords, if_neg (mt (signBit_iff_neg _).1 (Int.not_lt.2 h))]) s

/-- Settles O55: the sign test is on the signed reading, and a zero operand is the engine's own first case. -/
theorem squareRootCommands : Obligations.SquareRootCommands := fun rd ra s =>
  ⟨exec_sqrtU rd ra s, exec_sqrtS_of_neg, exec_sqrtS_of_nonneg, fun hzero => by
    rw [exec_sqrtU, hzero, sqrtFx_of_zero rfl, quadOf_makeZero]⟩

/-! ## The operands of table 2.8 and of R112 -/

/-- Settles O59: zero is the engine's first case, raw 3, 5 and 9 have the roots of 2, 4 and 8 (R112), and the engine runs
on the others. -/
theorem squareRootExamples : Obligations.SquareRootExamples := by
  have hzero : sqrtFx [0, 0, 0, 0] = makeZero 4 := sqrtFx_of_zero rfl
  have hthree : sqrtFx [3, 0, 0, 0] = sqrtFx [2, 0, 0, 0] := squareRootIgnoresTheLowestBit _ _ rfl rfl (by decide) rfl
  have hfive : sqrtFx [5, 0, 0, 0] = sqrtFx [4, 0, 0, 0] := squareRootIgnoresTheLowestBit _ _ rfl rfl (by decide) rfl
  have hnine : sqrtFx [9, 0, 0, 0] = sqrtFx [8, 0, 0, 0] := squareRootIgnoresTheLowestBit _ _ rfl rfl (by decide) rfl
  rw [Obligations.SquareRootExamples, hzero, hthree, hfive, hnine]
  decide +kernel

end Sys2Proof.SquareRoot
end

section
/-! Proofs about the move, load, read-back and conversion commands (47_move_convert_host.md). -/

namespace Sys2Proof.MoveHost

open Sys2Proof.Machine Sys2Proof.WordArrays Sys2Proof.AddSub Sys2Proof.ShiftBitwise Sys2Proof.Divide

/-! ## Move and clear (R113, R114) -/

/-- Settles O28: a register's four words are its content, and four zero words are the zero content. -/
theorem moveAndClear : Obligations.MoveAndClear := fun _ ra s =>
  ⟨writeResult_of_quadOf_eq (quadOf_quadWords (s.x ra)) s, writeResult_of_quadOf_eq quadOf_makeZero s⟩

/-! ## One word of a register (R115, R116) -/

theorem exec_wrw (rd : Reg) (k : WordIx) (imm : Word) (s : State) :
    exec (.wrw rd k imm) s = .next (s.writeWord rd k imm) := rfl

theorem exec_rdw (ra : Reg) (k : WordIx) (s : State) : exec (.rdw ra k) s = .next (s.setRdata (s.word ra k)) := rfl

theorem writeWord_word_self (s : State) (r : Reg) (k : WordIx) (w : Word) : (s.writeWord r k w).word r k = w := by
  rw [State.word, writeWord_x_self, quadWord_setWord_self]

/-- Another word is one of another register, or another one of the same register. -/
theorem writeWord_other (s : State) {r r' : Reg} {k k' : WordIx} (w : Word) (h : (r', k') ≠ (r, k)) :
    (s.writeWord r k w).word r' k' = s.word r' k' ∧ (s.writeWord r k w).isWritten r' k' = s.isWritten r' k' := by
  by_cases hr : r' = r
  · subst hr
    have hk : k' ≠ k := fun hk => h (by rw [hk])
    rw [State.word, writeWord_x_self, quadWord_setWord_ne _ _ hk]
    exact ⟨rfl, writeWord_isWritten_other s r' w hk⟩
  · rw [State.word, writeWord_x_ne s k w hr]
    exact ⟨rfl, writeWord_isWritten_ne s k k' w hr⟩

/-- Settles O29: `WRW` is one word write, `RDW` one word read. -/
theorem hostWordAccess : Obligations.HostWordAccess := fun r k imm s =>
  ⟨⟨s.writeWord r k imm, exec_wrw r k imm s, writeWord_word_self s r k imm, writeWord_isWritten_self ..,
      fun _ _ => writeWord_other s imm, writeWord_status .., writeWord_rdata .., writeWord_inputs ..,
      writeWord_rspValid .., writeWord_resets ..⟩,
    exec_rdw r k s⟩

/-! ## Loading a plain integer (R117, R118): the words written are the integer lined up with word 1 -/

theorem alignedImmU_eq (imm : Word) : alignedImmU imm = [0, imm, 0, 0] := rfl

theorem alignedImmS_eq (imm : Word) : alignedImmS imm = [0, imm, immFill imm, immFill imm] := rfl

theorem quadOf_alignedImmU (imm : Word) : quadOf (alignedImmU imm) = quadOfNat (imm.toNat * 2 ^ 32) := by
  rw [← uval_alignedImmU, ← raw_quadOf (alignedImmU_length imm), quadOfNat_raw]

theorem quadOf_alignedImmS (imm : Word) : quadOf (alignedImmS imm) = quadOfInt (imm.toInt * 2 ^ 32) :=
  quadOf_eq_quadOfInt (alignedImmS_length imm) (uval_alignedImmS imm)

/-- Settles O30: the loaded words are the buffer that `ADDI` adds, whose value is the integer times `2^32`. -/
theorem loadPlainInteger : Obligations.LoadPlainInteger := fun _ imm s =>
  ⟨writeResult_of_quadOf_eq (alignedImmU_eq imm ▸ quadOf_alignedImmU imm) s,
    writeResult_of_quadOf_eq (alignedImmS_eq imm ▸ quadOf_alignedImmS imm) s⟩

/-! ## Conversion to a plain integer (R119, R120) -/

theorem writeRdata_of_eq {w w' : Word} (h : w = w') (s : State) : writeRdata w s = .next (s.setRdata w') := by
  rw [writeRdata, h]

theorem ofNat_uval_cons (w : Word) (ws : WordBuf) : BitVec.ofNat 32 (uval (w :: ws)) = w := by
  apply BitVec.eq_of_toNat_eq
  rw [BitVec.toNat_ofNat, uval_cons, Nat.add_mul_mod_self_left, Nat.mod_eq_of_lt w.isLt]

/-- Word 1 of a buffer holds the low 32 bits of the buffer's integer div `2^32`. -/
theorem getD_one_eq (b : WordBuf) : b.getD 1 0 = BitVec.ofNat 32 (uval b / 2 ^ 32) := by
  match b with
  | [] => rfl
  | [w] => simp [Nat.div_eq_of_lt w.isLt]
  | w :: v :: ws =>
    have hdiv : uval (w :: v :: ws) / 2 ^ 32 = uval (v :: ws) := by
      rw [uval_cons, Nat.add_mul_div_left _ _ (by decide), Nat.div_eq_of_lt w.isLt, Nat.zero_add]
    rw [hdiv, ofNat_uval_cons]
    rfl

theorem toiSigned_eq_magnitude (q : Quad) :
    toiSigned q =
      if signBit (quadWords q) then -(magnitude (quadWords q)).getD 1 0 else (magnitude (quadWords q)).getD 1 0 := by
  rw [toiSigned, magnitude]
  split
  · exact BitVec.zero_sub _
  · rfl

/-- Going through the magnitude truncates toward zero. -/
theorem toiSigned_eq (q : Quad) : toiSigned q = BitVec.ofInt 32 ((rawSigned q).tdiv (2 ^ 32)) := by
  have hword : (magnitude (quadWords q)).getD 1 0 = BitVec.ofInt 32 ((rawSigned q).natAbs / 2 ^ 32 : Nat) := by
    rw [getD_one_eq, uval_magnitude, BitVec.ofInt_natCast]
    rfl
  have hsign : signBit (quadWords q) = true ↔ ¬ (rawSigned q < 0 ↔ (2 : Int) ^ 32 < 0) := by
    rw [signBit_iff_neg, rawSigned]
    omega
  rw [toiSigned_eq_magnitude, hword, ← withQuotientSign_eq_tdiv, withQuotientSign, if_congr hsign rfl rfl, ite_not,
    ← BitVec.ofInt_neg, ← apply_ite (BitVec.ofInt 32)]
  rfl

/-- Settles O31: word 1 is the integer part, of the register itself or of its magnitude. -/
theorem convertToPlainInteger : Obligations.ConvertToPlainInteger := fun ra s =>
  ⟨writeRdata_of_eq (getD_one_eq (s.xWords ra)) s, writeRdata_of_eq (toiSigned_eq (s.x ra)) s⟩

/-! ## Reading STATUS (R121) -/

theorem statusWord_low_bits (st : Status) :
    (statusWord st).getLsbD 0 = st.c ∧ (statusWord st).getLsbD 1 = st.t := by
  obtain ⟨c, t⟩ := st
  cases c <;> cases t <;> decide

theorem statusWord_high_bits (st : Status) {j : Nat} (hj : 2 ≤ j) : (statusWord st).getLsbD j = false := by
  have hlt : st.c.toNat + 2 * st.t.toNat < 2 ^ 2 := by
    have := st.c.toNat_le
    have := st.t.toNat_le
    omega
  rw [statusWord, BitVec.getLsbD_ofNat, Nat.testBit_lt_two_pow (hlt.trans_le (Nat.pow_le_pow_right (by decide) hj)),
    Bool.and_false]

/-- Settles O32: `RDS` returns the word of STATUS. -/
theorem readStatus : Obligations.ReadStatus := fun s =>
  have ⟨hc, ht⟩ := statusWord_low_bits s.status
  ⟨statusWord s.status, rfl, hc, ht, fun _ => statusWord_high_bits s.status⟩

end Sys2Proof.MoveHost
end

section
/-! Proofs about what cannot go wrong: every command completes, the idle unit holds its state, and the square root never
divides by zero (60_exceptions.md). -/

namespace Sys2Proof.Exceptions

open Sys2Proof.Machine Sys2Proof.Safety Sys2Proof.SquareRoot

/-- Settles O12: every command answers a next state of one of the shapes of its effect. -/
theorem everyCommandCompletes : Obligations.EveryCommandCompletes := fun i s =>
  (exec_effect i s).imp fun _ => And.left

/-- Settles O9: an input list at its end and an idle cycle are two cases of a step, and both only lower `rsp_valid`. -/
theorem idleUnitHoldsItsState : Obligations.IdleUnitHoldsItsState := by
  rintro s (hi | ⟨rest, hi⟩)
  · exact ⟨s.stayIdle, step_of_cases (.done hi), rfl, rfl, rfl, rfl, Memory.stepCases_inputs (.done hi), rfl, rfl⟩
  · exact ⟨_, step_of_cases (.idle hi), rfl, rfl, rfl, rfl, Memory.stepCases_inputs (.idle hi), rfl, rfl⟩

/-! ## The square root (R138): the quotient of a step stays below `2^127`, so no estimate wraps around to zero -/

theorem uval_lt_of_length_four {b : WordBuf} (h : b.length = 4) : uval b < 2 ^ 128 := by
  have hlt := uval_lt b
  rwa [h] at hlt

/-- The estimate is 4 words and large enough that the engine's quotient by it is below `2^127`; so it is not zero. -/
structure QuotientFits (half est : WordBuf) : Prop where
  length : est.length = 4
  lt : uval half * 2 ^ 32 < uval est * 2 ^ 127

theorem QuotientFits.uval_ne_zero {half est : WordBuf} (h : QuotientFits half est) : uval est ≠ 0 := by
  have := h.lt
  omega

/-- The next estimate is the exact sum of the quotient and the half of the estimate, rounded up. -/
theorem length_and_uval_of_sqrtStep {half est est' : WordBuf} (h : QuotientFits half est)
    (hstep : sqrtStep half est = some est') :
    est'.length = 4 ∧ uval est' = uval half * 2 ^ 32 / uval est + (uval est + 1) / 2 := by
  have hquot : uval half * 2 ^ 32 / uval est < 2 ^ 127 := Nat.div_lt_of_lt_mul h.lt
  have hest : uval est < 2 ^ 128 := uval_lt_of_length_four h.length
  have hdelta := uval_sqrtDelta h.length half
  rw [sqrtStep_eq h.length, Option.ite_none_left_eq_some, Option.some.injEq] at hstep
  obtain ⟨-, rfl⟩ := hstep
  have hsum := uval_bufInt 4 ((uval est : Int) + uval (sqrtDelta half est))
  refine ⟨bufInt_length .., ?_⟩
  generalize uval half * 2 ^ 32 / uval est = q at *
  omega

/-- A Newton step falls short of the root of `2 * m` by less than one unit (the mean inequality). -/
theorem two_mul_lt_sq_newton (m : Nat) {x : Nat} (hx : x ≠ 0) : 2 * m < (m / x + (x + 1) / 2 + 1) ^ 2 := by
  have hm : m < x * (m / x + 1) := Nat.lt_mul_div_succ m (Nat.pos_of_ne_zero hx)
  have hhalf : x ≤ 2 * ((x + 1) / 2) := by omega
  calc 2 * m < 2 * (x * (m / x + 1)) := by omega
    _ ≤ 2 * (2 * ((x + 1) / 2) * (m / x + 1)) := by gcongr
    _ ≤ ((x + 1) / 2 + (m / x + 1)) ^ 2 := by
      rw [← Nat.mul_assoc, ← Nat.mul_assoc]
      exact four_mul_le_sq_add ..
    _ = (m / x + (x + 1) / 2 + 1) ^ 2 := by ring

/-- A `y` that breaks the bound is below `2^33`, which leaves `m` too small to break it. -/
theorem lt_mul_of_two_mul_lt_sq {m y : Nat} (hm : m < 2 ^ 160) (hy : y ≠ 0) (h : 2 * m < (y + 1) ^ 2) :
    m < y * 2 ^ 127 := by
  by_contra hle
  have hsmall : (y + 1) ^ 2 ≤ (2 ^ 34) ^ 2 := Nat.pow_le_pow_left (by omega) 2
  omega

theorem quotientFits_step {half est est' : WordBuf} (hhalf : half.length = 4) (h : QuotientFits half est)
    (hstep : sqrtStep half est = some est') : QuotientFits half est' := by
  have hlt := uval_lt_of_length_four hhalf
  have hest := h.uval_ne_zero
  obtain ⟨hlen, hval⟩ := length_and_uval_of_sqrtStep h hstep
  have hne : uval est' ≠ 0 := hval ▸ (Nat.add_pos_right _ (by omega)).ne'
  have hnewton := two_mul_lt_sq_newton (uval half * 2 ^ 32) hest
  rw [← hval] at hnewton
  exact ⟨hlen, lt_mul_of_two_mul_lt_sq (by omega) hne hnewton⟩

/-- Half the bit length is at most 64, and a shift by it leaves a bit of a non-zero operand (D16). -/
theorem quotientFits_seed {v : WordBuf} (hv : v.length = 4) (hne : uval v ≠ 0) :
    QuotientFits (shrUWords v 1) (sqrtSeed v) := by
  refine ⟨(sqrtSeed_length v).trans hv, ?_⟩
  have hlog : Nat.log2 (uval v) < 128 := (Nat.log2_lt hne).2 (uval_lt_of_length_four hv)
  have hle : uval v / 2 ^ 64 ≤ uval (sqrtSeed v) := by
    rw [uval_sqrtSeed hne]
    exact Nat.div_le_div_left (Nat.pow_le_pow_right two_pos (by omega)) (by positivity)
  have hpos : 0 < uval (sqrtSeed v) := by
    rw [uval_sqrtSeed hne]
    exact Nat.div_pos ((Nat.pow_le_pow_right two_pos (by omega)).trans (Nat.log2_self_le hne)) (by positivity)
  rw [uval_shrUWords_one]
  omega

/-- The invariant holds of every estimate that the refinement reaches. -/
theorem quotientFits_of_sqrtEstimate {half seed : WordBuf} (hhalf : half.length = 4) (hseed : QuotientFits half seed)
    {n : Nat} {est : WordBuf} (h : sqrtEstimate half seed n = some est) : QuotientFits half est := by
  induction n generalizing est with
  | zero =>
    cases h
    exact hseed
  | succ n ih =>
    rw [sqrtEstimate_succ, Option.bind_eq_some_iff] at h
    obtain ⟨prev, hprev, hstep⟩ := h
    exact quotientFits_step hhalf (ih hprev) hstep

/-- Settles O57: the quotient fits at the seed and after every step, and an estimate for which it fits is not zero. -/
theorem squareRootNeverDividesByZero : Obligations.SquareRootNeverDividesByZero := fun v _ _ hlen hne h =>
  (quotientFits_of_sqrtEstimate ((shrUWords_length v 1).trans hlen) (quotientFits_seed hlen hne) h).uval_ne_zero

end Sys2Proof.Exceptions
end

section
/-! Proofs about `rst` (70_reset_and_hazards.md). -/

namespace Sys2Proof.Reset

open Sys2Proof.Machine Sys2Proof.Safety

theorem reservedInFlight_eq_none {inFlight : Option Command}
    (h : ∀ c, inFlight = some c → ∃ i, decode c = .command i) : reservedInFlight inFlight = none := by
  cases inFlight with
  | none => rfl
  | some c =>
    obtain ⟨i, hi⟩ := h c rfl
    simp only [reservedInFlight, hi]

/-- Settles O10: with no reserved command in flight `rst` is a step, whatever the registers hold. -/
theorem rstEntersTheResetState : Obligations.RstEntersTheResetState := fun s _ rest hi hlegal =>
  ⟨(s.takeInput rest).enterReset, step_of_cases (.reset hi (reservedInFlight_eq_none hlegal)), rfl, rfl, rfl, rfl, rfl,
    enterReset_isWritten _, rfl⟩

end Sys2Proof.Reset
end

section
/-! Proofs about a multiply followed by a divide by the same factor (property P4 of 95_test_vectors.md). -/

namespace Sys2Proof.MultiplyThenDivide

open Sys2Proof.Machine Sys2Proof.Safety Sys2Proof.HostWrites

/-- The scaled product, divided back: the two truncations lose at most the units of one scaled quotient, rounded up. -/
theorem scaled_div_bounds (a : Nat) {b n : Nat} (hb : b ≠ 0) (hn : n ≠ 0) :
    a * b / n * n / b ≤ a ∧ a ≤ a * b / n * n / b + (n + b - 1) / b := by
  have hb : 0 < b := Nat.pos_of_ne_zero hb
  have hproduct : a * b < n * (a * b / n + 1) := Nat.lt_mul_div_succ _ (Nat.pos_of_ne_zero hn)
  have hquot : a * b / n * n < b * (a * b / n * n / b + 1) := Nat.lt_mul_div_succ _ hb
  have hceil : n ≤ b * ((n + b - 1) / b) := Nat.ceilDiv_eq_add_pred_div n b ▸ le_smul_ceilDiv hb
  refine ⟨Nat.div_le_of_le_mul (Nat.mul_comm b a ▸ Nat.div_mul_le_self ..), Nat.le_of_lt_succ ?_⟩
  refine Nat.lt_of_mul_lt_mul_left (a := b) ?_
  calc b * a < a * b / n * n + n := by linarith
    _ < b * (a * b / n * n / b + 1) + b * ((n + b - 1) / b) := Nat.add_lt_add_of_lt_of_le hquot hceil
    _ = b * (a * b / n * n / b + (n + b - 1) / b + 1) := by ring

/-- Without overflow the product is not reduced. -/
theorem exec_mulU_of_lt {rd ra rb : Reg} {s : State} (h : raw (s.x ra) * raw (s.x rb) / 2 ^ 32 < 2 ^ 128) :
    exec (.mulU rd ra rb) s = .next (s.writeX rd (quadOfNat (raw (s.x ra) * raw (s.x rb) / 2 ^ 32))) := by
  rw [(Multiply.multiplyRegisters rd ra rb s).1, Nat.mod_eq_of_lt (by omega)]

/-- Settles O54: the factor's register keeps its value, and neither the product nor the quotient is reduced. -/
theorem multiplyThenDivideBound : Obligations.MultiplyThenDivideBound := by
  intro rd ra rb s hrd hb hfits
  have hbounds := scaled_div_bounds (raw (s.x ra)) hb (Nat.two_pow_pos 32).ne'
  refine ⟨_, (runCommands_cons_of_next (exec_mulU_of_lt hfits) _).trans
    (runCommands_cons_of_next (Divide.divideUnsigned rd rd rb _) []), ?_⟩
  rw [writeX_x_self, writeX_x_self, writeX_x_ne s _ hrd.symm, if_neg hb, raw_quadOfNat, raw_quadOfNat,
    Nat.mod_eq_of_lt hfits, Nat.mod_eq_of_lt (hbounds.1.trans_lt (raw_lt _))]
  exact hbounds

end Sys2Proof.MultiplyThenDivide
end
